-- ==== Sys2Proof/Word.lean ====
section
/-! DEFINITION. The word types of QRSEG: port words, input bytes and bit sequences. -/
namespace Sys2Proof

/-- A 32-bit register value, port word or command word (R10, R60, R90). -/
abbrev Word := BitVec 32

/-- One byte of the input memory IN (R47). -/
abbrev Byte := BitVec 8

/-- A bit sequence: the content of a bit buffer, first bit first (R11). -/
abbrev Bits := List Bool

end Sys2Proof
end

