-- ==== Sys2Proof/Config.lean ====
section
/-! DEFINITION. What an implementation of QRSEG fixes: the shape of its parameters (R8), and the one family of values
the spec leaves unspecified (R49, V1). The default parameter values stand in Machine/Params.lean. -/
namespace Sys2Proof.Config

/-- The character-count field widths of one mode: version ranges 1-9, 10-26 and 27-40 (R131). -/
structure CcwRow where
  index0 : Nat
  index1 : Nat
  index2 : Nat
deriving DecidableEq, Repr

/-- `CCW_TABLE`: one row per mode (R131). -/
structure CcwTable where
  numeric : CcwRow
  alphanumeric : CcwRow
  byte : CcwRow
  kanji : CcwRow
  eci : CcwRow
deriving DecidableEq, Repr

/-- The parameters of R8 that the spec leaves open (decisions D13, D19). They are fixed for one machine:
`State` carries them, and nothing changes them. -/
structure Params where
  /-- `IN_BYTES`, the size in bytes of the input memory. -/
  inBytes : Nat
  /-- `WBITS`, the capacity in bits of W and of each slot's data. -/
  wBits : Nat
  /-- `OBITS`, the capacity in bits of OUT. -/
  oBits : Nat
  /-- `NSEG`, the number of segment slots. -/
  nSeg : Nat
  /-- `CCW_TABLE`. -/
  ccwTable : CcwTable
deriving DecidableEq, Repr

/-- FREE VALUE (R49, R71, V1): the byte of IN at an offset that the host has not written since the reset numbered
`epoch`. Nothing constrains it. -/
opaque inUnwritten (epoch offset : Nat) : Byte

end Sys2Proof.Config
end

