-- ==== Sys2Proof/Syntax.lean ====
section
/-! DEFINITION. The commands of QRSEG-1, one constructor per row of the opcode map (R95), and the Mode enumeration (R46). -/
namespace Sys2Proof

/-- The closed enumeration of modes (R46). -/
inductive Mode where
  | numeric
  | alphanumeric
  | byte
  | kanji
  | eci
deriving DecidableEq, Repr

/-- The commands (R95). Field operands are unsigned numbers (R92); a mode field holds a mode (R94). -/
inductive Instr where
  /-- OP 0x00, R210. -/
  | nop
  /-- OP 0x01, R120. -/
  | bbClear
  /-- OP 0x02, R121: `wd` is the append width. -/
  | bbAppend (wd : Nat)
  /-- OP 0x03, R122. -/
  | bbLen
  /-- OP 0x04, R133. -/
  | modeInd (md : Mode)
  /-- OP 0x05, R134: `vr` is the symbol version. -/
  | ccw (md : Mode) (vr : Nat)
  /-- OP 0x06, R140. -/
  | segMake (md : Mode)
  /-- OP 0x07, R141: `sl` is the slot. -/
  | segMode (sl : Nat)
  /-- OP 0x08, R142. -/
  | segCount (sl : Nat)
  /-- OP 0x09, R143. -/
  | segData (sl : Nat)
  /-- OP 0x0A, R144. -/
  | listClear
  /-- OP 0x0B, R145. -/
  | listLen
  /-- OP 0x0C, R161. -/
  | segNum
  /-- OP 0x0D, R163. -/
  | segAlnum
  /-- OP 0x0E, R164. -/
  | segBytes
  /-- OP 0x0F, R165. -/
  | segEci
  /-- OP 0x10, R166. -/
  | segAuto
  /-- OP 0x11, R190. -/
  | totalBits (vr : Nat)
  /-- OP 0x12, R192. -/
  | outClear
  /-- OP 0x13, R193. -/
  | outLen
  /-- OP 0x14, R194. -/
  | serialize (vr : Nat)
deriving DecidableEq, Repr

end Sys2Proof
end

