-- ==== Sys2Proof/WellFormed.lean ====
section
/-! DEFINITION. Which command terms the encoding can express: each field in the range of its bits (R91, R92). -/
namespace Sys2Proof

/-- WD has 5 bits (R91). -/
def wdFits (wd : Nat) : Bool := wd ≤ 31

/-- VR has 6 bits (R91); values outside 1..40 are encodable (R92). -/
def vrFits (vr : Nat) : Bool := vr ≤ 63

/-- SL has 6 bits (R91). -/
def slFits (sl : Nat) : Bool := sl ≤ 63

/-- The command's fields are in range, so that it has a command word (R91, R100). -/
def Instr.wellFormed : Instr → Bool
  | .nop => true
  | .bbClear => true
  | .bbAppend wd => wdFits wd
  | .bbLen => true
  | .modeInd _ => true
  | .ccw _ vr => vrFits vr
  | .segMake _ => true
  | .segMode sl => slFits sl
  | .segCount sl => slFits sl
  | .segData sl => slFits sl
  | .listClear => true
  | .listLen => true
  | .segNum => true
  | .segAlnum => true
  | .segBytes => true
  | .segEci => true
  | .segAuto => true
  | .totalBits vr => vrFits vr
  | .outClear => true
  | .outLen => true
  | .serialize vr => vrFits vr

end Sys2Proof
end

