-- ==== Sys2Proof/Decode.lean ====
section
/-! DEFINITION. The decoder of 32-bit command words (R91 to R97), total and rejecting by name, and the encoder. -/
namespace Sys2Proof

/-- The 4-bit indicator of a mode (R130), which is also its MD code (R94). -/
def modeIndicator : Mode → Nat
  | .numeric => 1
  | .alphanumeric => 2
  | .byte => 4
  | .kanji => 8
  | .eci => 7

/-- The mode an MD code names; `none` for 0, 3, 5, 6 and 9..15 (R94). -/
def modeOfIndicator (md : Nat) : Option Mode :=
  if md = 1 then some .numeric
  else if md = 2 then some .alphanumeric
  else if md = 4 then some .byte
  else if md = 7 then some .eci
  else if md = 8 then some .kanji
  else none

/-- `c[hi:lo]`, read as an unsigned number (R10, R92). -/
def wordField (c : Word) (hi lo : Nat) : Nat := c.toNat / 2 ^ lo % 2 ^ (hi + 1 - lo)

/-- OP (R91). -/
def opField (c : Word) : Nat := wordField c 5 0
/-- WD (R91). -/
def wdField (c : Word) : Nat := wordField c 10 6
/-- MD (R91). -/
def mdField (c : Word) : Nat := wordField c 14 11
/-- VR (R91). -/
def vrField (c : Word) : Nat := wordField c 20 15
/-- SL (R91). -/
def slField (c : Word) : Nat := wordField c 26 21
/-- RSV (R91). -/
def rsvField (c : Word) : Nat := wordField c 31 27

/-- Which fields a command uses, with the command they make (R95, the column "fields"). -/
inductive CommandForm where
  | plain (i : Instr)
  | width (f : Nat → Instr)
  | mode (f : Mode → Instr)
  | modeVersion (f : Mode → Nat → Instr)
  | slot (f : Nat → Instr)
  | version (f : Nat → Instr)

/-- A row of the opcode map (R95): MATCH, MASK and the fields. -/
structure OpcodeRow where
  pattern : Word
  mask : Word
  form : CommandForm

/-- The opcode map (R95); the row at position `op` is the row of OP = `op`. -/
def opcodeMap : List OpcodeRow :=
  [ ⟨0x00000000, 0xFFFFFFFF, .plain .nop⟩,
    ⟨0x00000001, 0xFFFFFFFF, .plain .bbClear⟩,
    ⟨0x00000002, 0xFFFFF83F, .width .bbAppend⟩,
    ⟨0x00000003, 0xFFFFFFFF, .plain .bbLen⟩,
    ⟨0x00000004, 0xFFFF87FF, .mode .modeInd⟩,
    ⟨0x00000005, 0xFFE007FF, .modeVersion .ccw⟩,
    ⟨0x00000006, 0xFFFF87FF, .mode .segMake⟩,
    ⟨0x00000007, 0xF81FFFFF, .slot .segMode⟩,
    ⟨0x00000008, 0xF81FFFFF, .slot .segCount⟩,
    ⟨0x00000009, 0xF81FFFFF, .slot .segData⟩,
    ⟨0x0000000A, 0xFFFFFFFF, .plain .listClear⟩ ] ++
  [ ⟨0x0000000B, 0xFFFFFFFF, .plain .listLen⟩,
    ⟨0x0000000C, 0xFFFFFFFF, .plain .segNum⟩,
    ⟨0x0000000D, 0xFFFFFFFF, .plain .segAlnum⟩,
    ⟨0x0000000E, 0xFFFFFFFF, .plain .segBytes⟩,
    ⟨0x0000000F, 0xFFFFFFFF, .plain .segEci⟩,
    ⟨0x00000010, 0xFFFFFFFF, .plain .segAuto⟩,
    ⟨0x00000011, 0xFFE07FFF, .version .totalBits⟩,
    ⟨0x00000012, 0xFFFFFFFF, .plain .outClear⟩,
    ⟨0x00000013, 0xFFFFFFFF, .plain .outLen⟩,
    ⟨0x00000014, 0xFFE07FFF, .version .serialize⟩ ]

/-- Why a word is no command (R93, R96). Each of them is the error IllegalCommand. -/
inductive DecodeError where
  /-- OP is in 0x15..0x3F. -/
  | reservedOpcode
  /-- RSV or a field the command does not use is nonzero. -/
  | unusedFieldNonzero
  /-- MD names no mode. -/
  | notAMode
deriving DecidableEq, Repr

/-- The outcome of decoding a word: a command, or the reason it is none. -/
inductive Decoded where
  | command (i : Instr)
  | illegal (e : DecodeError)
deriving DecidableEq, Repr

/-- The command of a form whose mode operand is code `md` (R93, the third check). -/
def decodeMode (md : Nat) (f : Mode → Instr) : Decoded :=
  match modeOfIndicator md with
  | some m => .command (f m)
  | none => .illegal .notAMode

/-- The command a row's form makes of the word's fields (R93). -/
def decodeForm (c : Word) : CommandForm → Decoded
  | .plain i => .command i
  | .width f => .command (f (wdField c))
  | .mode f => decodeMode (mdField c) f
  | .modeVersion f => decodeMode (mdField c) (fun m => f m (vrField c))
  | .slot f => .command (f (slField c))
  | .version f => .command (f (vrField c))

/-- Decoding a command word, with the checks of R93 in its order. -/
def decode (c : Word) : Decoded :=
  match opcodeMap[opField c]? with
  | none => .illegal .reservedOpcode
  | some row => if c &&& row.mask = row.pattern then decodeForm c row.form else .illegal .unusedFieldNonzero

/-- The decoder on a word given as the bits of an opcode-table row: bit 0 is the word's bit 0. -/
def decodeTableWord (nbits w : Nat) : Option Instr :=
  match decode (BitVec.ofNat 32 (w % 2 ^ nbits)) with
  | .command i => some i
  | .illegal _ => none

/-- The encoding formula of R91. -/
def packFields (op wd md vr sl : Nat) : Word :=
  BitVec.ofNat 32 (op + wd * 2 ^ 6 + md * 2 ^ 11 + vr * 2 ^ 15 + sl * 2 ^ 21)

/-- The command word of a well-formed command (R91, R95). -/
def encode : Instr → Word
  | .nop => packFields 0x00 0 0 0 0
  | .bbClear => packFields 0x01 0 0 0 0
  | .bbAppend wd => packFields 0x02 wd 0 0 0
  | .bbLen => packFields 0x03 0 0 0 0
  | .modeInd md => packFields 0x04 0 (modeIndicator md) 0 0
  | .ccw md vr => packFields 0x05 0 (modeIndicator md) vr 0
  | .segMake md => packFields 0x06 0 (modeIndicator md) 0 0
  | .segMode sl => packFields 0x07 0 0 0 sl
  | .segCount sl => packFields 0x08 0 0 0 sl
  | .segData sl => packFields 0x09 0 0 0 sl
  | .listClear => packFields 0x0A 0 0 0 0
  | .listLen => packFields 0x0B 0 0 0 0
  | .segNum => packFields 0x0C 0 0 0 0
  | .segAlnum => packFields 0x0D 0 0 0 0
  | .segBytes => packFields 0x0E 0 0 0 0
  | .segEci => packFields 0x0F 0 0 0 0
  | .segAuto => packFields 0x10 0 0 0 0
  | .totalBits vr => packFields 0x11 0 0 vr 0
  | .outClear => packFields 0x12 0 0 0 0
  | .outLen => packFields 0x13 0 0 0 0
  | .serialize vr => packFields 0x14 0 0 vr 0

end Sys2Proof
end

