-- ==== Sys2Proof/Machine/Params.lean ====
section
/-! DEFINITION. The parameters of R8: the limits the source fixes, the default values, the constraints, and the
character-count field width `ccw` (R131, R132). -/
namespace Sys2Proof.Machine

open Sys2Proof.Config (Params CcwRow CcwTable)

/-- `MINVER` (R8). -/
abbrev minVer : Nat := 1
/-- `MAXVER` (R8). -/
abbrev maxVer : Nat := 40
/-- `ECI_LIMIT` (R8). -/
abbrev eciLimit : Nat := 1000000
/-- `TOTAL_LIMIT` = 2^31 - 1 (R8). -/
abbrev totalLimit : Nat := 2147483647

/-- 1 ≤ ver ≤ 40 (R132, R220). -/
def legalVersion (ver : Nat) : Bool := minVer ≤ ver && ver ≤ maxVer

/-- The default `CCW_TABLE` (R131); PRESUMED by the spec itself but for NUMERIC index 0 and the ECI row (G1; log 3). -/
def defaultCcwTable : CcwTable :=
  { numeric := ⟨10, 12, 14⟩
    alphanumeric := ⟨9, 11, 13⟩
    byte := ⟨8, 16, 16⟩
    kanji := ⟨8, 10, 12⟩
    eci := ⟨0, 0, 0⟩ }

/-- The default parameters (R8). -/
def defaultParams : Params :=
  { inBytes := 4096
    wBits := 32768
    oBits := 65536
    nSeg := 16
    ccwTable := defaultCcwTable }

/-- A mode's row of the table (R131). -/
def ccwRow (t : CcwTable) : Mode → CcwRow
  | .numeric => t.numeric
  | .alphanumeric => t.alphanumeric
  | .byte => t.byte
  | .kanji => t.kanji
  | .eci => t.eci

/-- The entry of a row for a width index (R131). -/
def ccwEntry (r : CcwRow) (index : Nat) : Nat :=
  match index with
  | 0 => r.index0
  | 1 => r.index1
  | _ => r.index2

/-- The width index of a version (R132). -/
def widx (ver : Nat) : Nat := if ver ≤ 9 then 0 else if ver ≤ 26 then 1 else 2

/-- The character-count field width of a mode at a version (R132). Every command checks the version first. -/
def ccw (p : Params) (m : Mode) (ver : Nat) : Nat := ccwEntry (ccwRow p.ccwTable m) (widx ver)

/-- Every entry of a row is in 0..31 (R131). -/
def ccwRowValid (r : CcwRow) : Bool := r.index0 ≤ 31 && r.index1 ≤ 31 && r.index2 ≤ 31

/-- The constraints on `CCW_TABLE` (R131). -/
def ccwTableValid (t : CcwTable) : Bool :=
  t.numeric.index0 = 10 && t.eci = ⟨0, 0, 0⟩ && ccwRowValid t.numeric && ccwRowValid t.alphanumeric &&
    ccwRowValid t.byte && ccwRowValid t.kanji && ccwRowValid t.eci

/-- The constraints on the parameters (R8, R131). -/
def paramsValid (p : Params) : Bool :=
  1 ≤ p.inBytes && p.inBytes ≤ 4096 && 24 ≤ p.wBits && 8 * p.inBytes ≤ p.wBits && p.wBits ≤ 32768 &&
    1 ≤ p.oBits && p.oBits ≤ 65536 && 1 ≤ p.nSeg && p.nSeg ≤ 64 && ccwTableValid p.ccwTable

end Sys2Proof.Machine
end

