-- ==== Sys2Proof/Machine/State.lean ====
section
/-! DEFINITION. The state of QRSEG (R30 to R49), the host's accesses that are still to come, and the reset state. -/
namespace Sys2Proof.Machine

open Sys2Proof.Config (Params)

/-- The error codes STATUS.LERR can hold (R220). Codes 7..15 are never produced (V4), so they have no constructor. -/
inductive LErr where
  /-- 0: the command succeeded, or ended with the capacity outcome. -/
  | none
  /-- 1. -/
  | invalidArgument
  /-- 2. -/
  | illegalCommand
  /-- 3. -/
  | badVersion
  /-- 4. -/
  | badSlot
  /-- 5. -/
  | listFull
  /-- 6. -/
  | bufferFull
deriving DecidableEq, Repr

/-- The fields of STATUS (R37). The reserved bits read as 0 and ignore writes, so they hold nothing (V3). -/
structure Status where
  /-- LERR, the error of the most recent command. -/
  lerr : LErr
  /-- CAPX, the most recent command ended with the capacity-exceeded outcome. -/
  capx : Bool
  /-- ERRS, sticky: some command raised an error since the host cleared it. -/
  errs : Bool
deriving DecidableEq, Repr

/-- A segment value (R43). -/
structure Segment where
  mode : Mode
  count : Nat
  data : Bits
deriving DecidableEq, Repr

/-- The written bytes of IN (R47): offset and byte, offsets strictly rising. An offset that is not listed has not
been written since reset. -/
abbrev Memory := List Host.Cell

/-- A word address A[15:2] of the host port; the port has no lines A[1:0] (R60). The byte address is 4 times it. -/
abbrev PortAddr := BitVec 14

/-- What the outside world can do to the block (R32, R60, R250): a host read, a host write, or the reset input. -/
inductive HostEvent where
  | read (a : PortAddr)
  | write (a : PortAddr) (data : Word)
  | reset
deriving DecidableEq, Repr

/-- The state of the machine. ID is a constant and SEGCNT is `segs.length` (R39, R45). -/
structure State where
  /-- The parameters of this machine (R8); nothing changes them. -/
  params : Params
  /-- STATUS (R37). -/
  status : Status
  /-- RES (R35). -/
  res : Word
  /-- IMM (R34). -/
  imm : Word
  /-- INLEN (R36). -/
  inlen : Word
  /-- CMDLAST, what a read of CMD returns (R38). -/
  cmdlast : Word
  /-- W, the working bit buffer (R40). -/
  w : Bits
  /-- OUT, the output bit buffer (R41). -/
  out : Bits
  /-- The segment list SEG[0], …, SEG[SEGCNT-1] (R42). -/
  segs : List Segment
  /-- IN, the input memory: the bytes the host has written since reset (R47). -/
  input : Memory
  /-- The MODEL's own: how many resets have happened, which numbers the free draws of unwritten IN bytes (V1; log 2). -/
  inEpoch : Nat
  /-- The MODEL's own: the host's accesses still to come, in the order it issues them (R74; log 1). -/
  pending : List HostEvent
  /-- The MODEL's own: the data word the port returned for the latest host read (R60; log 1). -/
  rdata : Word
deriving DecidableEq, Repr

/-- QRSEG stops on no fault: every error is reported in STATUS and the block goes on (R222, R228 to R230), so this
type has no constructor; nothing raises it, which is safe. -/
inductive Fault
deriving DecidableEq, Repr

/-- Why a command has no meaning in the model. -/
inductive Refusal where
  /-- Raised by `exec` for a command that has no meaning yet (safe). No arm raises it. -/
  | notModelled (mnemonic : String)
deriving DecidableEq, Repr

/-- STATUS after reset (R49). -/
def Status.reset : Status := { lerr := .none, capx := false, errs := false }

/-- The machine right after reset (R49), with the default parameters (R8), no byte of IN written and no host access
to come. -/
def State.reset : State :=
  { params := defaultParams
    status := Status.reset
    res := 0
    imm := 0
    inlen := 0
    cmdlast := 0
    w := []
    out := []
    segs := []
    input := []
    inEpoch := 0
    pending := []
    rdata := 0 }

/-- SEGCNT (R42). -/
abbrev State.segcnt (s : State) : Nat := s.segs.length

end Sys2Proof.Machine
end

