-- ==== Sys2Proof/Machine/Bits.lean ====
section
/-! DEFINITION. Bit sequences: MSB-first fields (R12), append (R13), and the bytes and words of a bit-buffer window (R64). -/
namespace Sys2Proof.Machine

/-- `bitsof(v, n)`: the n bits of v, most significant first (R12). -/
def bitsof (v : Nat) : Nat → Bits
  | 0 => []
  | n + 1 => v.testBit n :: bitsof v n

/-- `append(B, v, n)` (R13). -/
def append (b : Bits) (v n : Nat) : Bits := b ++ bitsof v n

/-- `bitat(B, i)`: bit i of a buffer, 0 past its end (R64). -/
def bitAt (b : Bits) (i : Nat) : Bool := b[i]?.getD false

/-- The number whose bits are the given ones, most significant first (R64, R168). -/
def natOfBits (b : Bits) : Nat := b.foldl (fun acc x => 2 * acc + x.toNat) 0

/-- `byteof(B, k)`: bits 8k..8k+7 of a buffer, bit 8k the byte's most significant (R64). -/
def byteOf (b : Bits) (k : Nat) : Nat := natOfBits ((List.range 8).map (fun t => bitAt b (8 * k + t)))

/-- A word made of four bytes, the first in the least significant place (R67). -/
def wordOfBytes (b0 b1 b2 b3 : Nat) : Word := BitVec.ofNat 32 (b0 + b1 * 2 ^ 8 + b2 * 2 ^ 16 + b3 * 2 ^ 24)

/-- Byte k = 0..3 of a port word: data bits [8k+7:8k] (R67). -/
def byteOfWord (d : Word) (k : Nat) : Byte := BitVec.ofNat 8 (d.toNat / 2 ^ (8 * k))

/-- Word j of a bit-buffer window (R64). -/
def windowWord (b : Bits) (j : Nat) : Word :=
  wordOfBytes (byteOf b (4 * j)) (byteOf b (4 * j + 1)) (byteOf b (4 * j + 2)) (byteOf b (4 * j + 3))

end Sys2Proof.Machine
end

