-- ==== Sys2Proof/Machine/Flags.lean ====
section
/-! DEFINITION. STATUS: its code and word forms (R37, R220), and what a command's three outcomes and the host's
write make of it (R213, R222 to R224). -/
namespace Sys2Proof.Machine

/-- The code of an error (R220). -/
def lerrCode : LErr → Nat
  | .none => 0
  | .invalidArgument => 1
  | .illegalCommand => 2
  | .badVersion => 3
  | .badSlot => 4
  | .listFull => 5
  | .bufferFull => 6

/-- STATUS as the host reads it: LERR in [3:0], CAPX in [4], ERRS in [8], every other bit 0 (R37). -/
def statusWord (st : Status) : Word :=
  BitVec.ofNat 32 (lerrCode st.lerr + st.capx.toNat * 2 ^ 4 + st.errs.toNat * 2 ^ 8)

/-- STATUS after a command that succeeds (R223). -/
def statusDone (st : Status) : Status := { lerr := .none, capx := false, errs := st.errs }

/-- STATUS after a command that raises an error (R222). -/
def statusRaised (e : LErr) : Status := { lerr := e, capx := false, errs := true }

/-- STATUS after the capacity-exceeded outcome (R224). -/
def statusCapacity (st : Status) : Status := { lerr := .none, capx := true, errs := st.errs }

/-- STATUS after a host write: bit 8 set clears ERRS, and every other bit is ignored (R37, R213). -/
def statusHostWrite (st : Status) (data : Word) : Status :=
  { lerr := st.lerr, capx := st.capx, errs := st.errs && !data.getLsbD 8 }

end Sys2Proof.Machine
end

