-- ==== Sys2Proof/Machine/Ops.lean ====
section
/-! DEFINITION. The named operations over registers, buffers, the segment list and the input memory; the three ways a
command ends (R222 to R224), which are all this hardware has of exceptions (R228, R229); and the reset input (R250). -/
namespace Sys2Proof.Machine

/-! Register and buffer writes, one per piece of state (R13). -/

def State.setStatus (s : State) (v : Status) : State := { s with status := v }
def State.setRes (s : State) (v : Word) : State := { s with res := v }
def State.setImm (s : State) (v : Word) : State := { s with imm := v }
def State.setInlen (s : State) (v : Word) : State := { s with inlen := v }
def State.setCmdlast (s : State) (v : Word) : State := { s with cmdlast := v }
def State.setW (s : State) (v : Bits) : State := { s with w := v }
def State.setOut (s : State) (v : Bits) : State := { s with out := v }
def State.setSegs (s : State) (v : List Segment) : State := { s with segs := v }
def State.setInput (s : State) (v : Memory) : State := { s with input := v }
def State.setPending (s : State) (v : List HostEvent) : State := { s with pending := v }
def State.setRdata (s : State) (v : Word) : State := { s with rdata := v }

/-! How a command ends. -/

/-- A command that succeeds: its writes are already in `s`, and STATUS reports success (R223). -/
def done (s : State) : Host.Outcome State Fault Refusal := .next (s.setStatus (statusDone s.status))

/-- `raise E`: the state before the command, with the error reported (R15, R222). This is the hardware's only
exception; nothing is saved and control goes nowhere (R228), and there is no return from it (R229). -/
def raise (e : LErr) (s : State) : Host.Outcome State Fault Refusal := .next (s.setStatus (statusRaised e))

/-- `capacity_exceeded()`: RES holds the sentinel and CAPX is set (R224). -/
def capacityExceeded (s : State) : Host.Outcome State Fault Refusal :=
  .next ((s.setRes 0xFFFFFFFF).setStatus (statusCapacity s.status))

/-! The segment list. -/

/-- `addseg(m, n, B)`: the new segment is last in the list (R146). -/
def addseg (m : Mode) (n : Nat) (b : Bits) (s : State) : State :=
  s.setSegs (s.segs ++ [{ mode := m, count := n, data := b }])

/-! The input memory. -/

/-- The canonical form of the input memory: offsets strictly rising. -/
def Memory.wf : Memory → Bool
  | [] => true
  | [_] => true
  | (a, _) :: (b, y) :: rest => decide (a < b) && Memory.wf ((b, y) :: rest)

/-- The byte written at an offset, `none` where the host has written none since reset (R71). -/
def memGet : Memory → Nat → Option Byte
  | [], _ => none
  | (a, x) :: rest, o => if a = o then some x else memGet rest o

/-- Writing one byte, keeping the canonical form (R71). -/
def memSet : Memory → Nat → Byte → Memory
  | [], o, b => [(o, b)]
  | (a, x) :: rest, o, b =>
    if o < a then (o, b) :: (a, x) :: rest
    else if a = o then (o, b) :: rest
    else (a, x) :: memSet rest o b

/-- One byte of IN: what the host wrote there, else the free value (R49, R71, V1); 0 at an offset that IN does not
have (R71). -/
def inByte (s : State) (o : Nat) : Byte :=
  if o < s.params.inBytes then (memGet s.input o).getD (Config.inUnwritten s.inEpoch o) else 0

/-- Writing one byte of IN; a byte at an offset that IN does not have is dropped (R71). -/
def inWriteByte (o : Nat) (b : Byte) (s : State) : State :=
  if o < s.params.inBytes then s.setInput (memSet s.input o b) else s

/-- `MemWrite(o, 4, data)`: the four bytes of a word, least significant first (R71). -/
def inWriteWord (o : Nat) (d : Word) (s : State) : State :=
  inWriteByte (o + 3) (byteOfWord d 3) (inWriteByte (o + 2) (byteOfWord d 2)
    (inWriteByte (o + 1) (byteOfWord d 1) (inWriteByte o (byteOfWord d 0) s)))

/-- The word of the IN window at a byte offset (R71). -/
def inReadWord (s : State) (o : Nat) : Word :=
  wordOfBytes (inByte s o).toNat (inByte s (o + 1)).toNat (inByte s (o + 2)).toNat (inByte s (o + 3)).toNat

/-- `MemRead(0, n)`: the first n bytes of IN, in offset order (R13, R70). -/
def memRead (s : State) (n : Nat) : List Byte := (List.range n).map (inByte s)

/-! The reset input. -/

/-- The state after the reset input is asserted (R250): every register and buffer at its value of R49; IN is
unspecified again, so its unwritten bytes are new free draws (log 2). The parameters, the host's later accesses and
the word the host read last are not the block's to reset. -/
def afterReset (s : State) : State :=
  { State.reset with
    params := s.params
    inEpoch := s.inEpoch + 1
    pending := s.pending
    rdata := s.rdata }

end Sys2Proof.Machine
end

