-- ==== Sys2Proof/Machine/Operands.lean ====
section
/-! DEFINITION. The operand forms: IMM as a signed value (R34, R99), the input text (R70), results as register values
(R10, R14), and the character sets (R16). -/
namespace Sys2Proof.Machine

/-- `sint32(r)` (R10). -/
abbrev sint32 (r : Word) : Int := r.toInt

/-- `word32(n)` of a natural number (R10). -/
abbrev word32 (n : Nat) : Word := BitVec.ofNat 32 n

/-- The immediate operand: `sint32(IMM)` (R34). -/
abbrev immOperand (s : State) : Int := sint32 s.imm

/-- The text operand: `MemRead(0, INLEN)` (R70). -/
def textOperand (s : State) : List Byte := memRead s s.inlen.toNat

/-- `isDigit(b)` (R16). -/
def isDigit (b : Byte) : Bool := 0x30 ≤ b.toNat && b.toNat ≤ 0x39

/-- `digit(b)` (R16). -/
def digit (b : Byte) : Nat := b.toNat - 0x30

/-- The ASCII codes of the last nine symbols of `ALNUM`, in its order: space $ % * + - . / : (R16). -/
def alnumSymbols : List Nat := [0x20, 0x24, 0x25, 0x2A, 0x2B, 0x2D, 0x2E, 0x2F, 0x3A]

/-- The position of a byte in `ALNUM`, `none` where it is not in the list: the digits from 0, the capitals from 10, the
symbols from 36 (R16). -/
def alnumPos (b : Byte) : Option Nat :=
  if isDigit b then some (digit b)
  else if 0x41 ≤ b.toNat ∧ b.toNat ≤ 0x5A then some (10 + (b.toNat - 0x41))
  else (alnumSymbols.idxOf? b.toNat).map (36 + ·)

/-- `isAlnum(b)` (R16). -/
def isAlnum (b : Byte) : Bool := (alnumPos b).isSome

/-- `alnumIndex(b)` of a byte in the set (R16). -/
def alnumIndex (b : Byte) : Nat := (alnumPos b).getD 0

end Sys2Proof.Machine
end

