-- ==== Sys2Proof/Machine/BitBuffer.lean ====
section
/-! DEFINITION. The bit-buffer commands (R120 to R122). -/
namespace Sys2Proof.Machine

/-- BB_CLEAR (R120). -/
def execBbClear (s : State) : Host.Outcome State Fault Refusal := done (s.setW [])

/-- BB_APPEND: the value of IMM in `wd` bits, MSB first (R121). -/
def execBbAppend (wd : Nat) (s : State) : Host.Outcome State Fault Refusal :=
  if immOperand s < 0 ∨ immOperand s ≥ 2 ^ wd then raise .invalidArgument s
  else if s.w.length + wd > s.params.wBits then raise .bufferFull s
  else done (s.setW (append s.w (immOperand s).toNat wd))

/-- BB_LEN (R122). -/
def execBbLen (s : State) : Host.Outcome State Fault Refusal := done (s.setRes (word32 s.w.length))

end Sys2Proof.Machine
end

