-- ==== Sys2Proof/Machine/Factories.lean ====
section
/-! DEFINITION. The segment factories and automatic mode selection (R160 to R170). -/
namespace Sys2Proof.Machine

/-- `FactoryCommit(m, n, B)` (R160). -/
def factoryCommit (m : Mode) (n : Nat) (b : Bits) (s : State) : Host.Outcome State Fault Refusal :=
  if s.segcnt = s.params.nSeg then raise .listFull s
  else if b.length > s.params.wBits then raise .bufferFull s
  else
    let t := addseg m n b (s.setW b)
    done (t.setRes (word32 t.segcnt))

/-- A group of digits read as a decimal number (R161). -/
def groupValue (g : List Byte) : Nat := g.foldl (fun acc x => 10 * acc + digit x) 0

/-- The field of a group of k digits: its value in 3k+1 bits (R161, R162). -/
def groupBits (g : List Byte) : Bits := bitsof (groupValue g) (3 * g.length + 1)

/-- The numeric payload: groups of three digits from the start, the last one possibly short (R161). -/
def numericPayload : List Byte → Bits
  | [] => []
  | [x] => groupBits [x]
  | [x, y] => groupBits [x, y]
  | x :: y :: z :: rest => groupBits [x, y, z] ++ numericPayload rest

/-- The alphanumeric payload: pairs in 11 bits, a trailing single character in 6 (R163). -/
def alnumPayload : List Byte → Bits
  | [] => []
  | [x] => bitsof (alnumIndex x) 6
  | x :: y :: rest => bitsof (45 * alnumIndex x + alnumIndex y) 11 ++ alnumPayload rest

/-- The byte payload: every byte in 8 bits (R164). -/
def bytePayload : List Byte → Bits
  | [] => []
  | x :: rest => bitsof x.toNat 8 ++ bytePayload rest

/-- The ECI designator of an assignment value (R165). -/
def eciPayload (v : Nat) : Bits :=
  if v < 128 then bitsof v 8
  else if v < 16384 then [true, false] ++ bitsof v 14
  else [true, true, false] ++ bitsof v 21

/-- The body of SEG_NUM (R161), which SEG_AUTO also runs (R166). -/
def numericBody (s : State) : Host.Outcome State Fault Refusal :=
  if (textOperand s).all isDigit then factoryCommit .numeric s.inlen.toNat (numericPayload (textOperand s)) s
  else raise .invalidArgument s

/-- The body of SEG_ALNUM (R163), which SEG_AUTO also runs (R166). -/
def alnumBody (s : State) : Host.Outcome State Fault Refusal :=
  if (textOperand s).all isAlnum then factoryCommit .alphanumeric s.inlen.toNat (alnumPayload (textOperand s)) s
  else raise .invalidArgument s

/-- The body of SEG_BYTES (R164), which SEG_AUTO also runs (R166). -/
def bytesBody (s : State) : Host.Outcome State Fault Refusal :=
  factoryCommit .byte s.inlen.toNat (bytePayload (textOperand s)) s

/-- SEG_NUM (R161). -/
def execSegNum (s : State) : Host.Outcome State Fault Refusal := numericBody s

/-- SEG_ALNUM (R163). -/
def execSegAlnum (s : State) : Host.Outcome State Fault Refusal := alnumBody s

/-- SEG_BYTES (R164). -/
def execSegBytes (s : State) : Host.Outcome State Fault Refusal := bytesBody s

/-- SEG_ECI (R165). -/
def execSegEci (s : State) : Host.Outcome State Fault Refusal :=
  if immOperand s < 0 ∨ immOperand s ≥ eciLimit then raise .invalidArgument s
  else factoryCommit .eci 0 (eciPayload (immOperand s).toNat) s

/-- SEG_AUTO (R166). -/
def execSegAuto (s : State) : Host.Outcome State Fault Refusal :=
  if s.inlen.toNat = 0 then done ((s.setW []).setRes (word32 s.segcnt))
  else if (textOperand s).all isDigit then numericBody s
  else if (textOperand s).all isAlnum then alnumBody s
  else bytesBody s

end Sys2Proof.Machine
end

