-- ==== Sys2Proof/Machine/ModeTable.lean ====
section
/-! DEFINITION. The commands that read the mode table (R133, R134). -/
namespace Sys2Proof.Machine

/-- MODE_IND (R133). -/
def execModeInd (md : Mode) (s : State) : Host.Outcome State Fault Refusal :=
  done (s.setRes (word32 (modeIndicator md)))

/-- CCW (R134). -/
def execCcw (md : Mode) (vr : Nat) (s : State) : Host.Outcome State Fault Refusal :=
  if legalVersion vr then done (s.setRes (word32 (ccw s.params md vr))) else raise .badVersion s

end Sys2Proof.Machine
end

