-- ==== Sys2Proof/Machine/Segment.lean ====
section
/-! DEFINITION. The low-level constructor, the getters and the list commands (R140 to R145). -/
namespace Sys2Proof.Machine

/-- SEG_MAKE: the segment (MD, sint32(IMM), a copy of W) (R140). -/
def execSegMake (md : Mode) (s : State) : Host.Outcome State Fault Refusal :=
  if immOperand s < 0 then raise .invalidArgument s
  else if s.segcnt = s.params.nSeg then raise .listFull s
  else
    let t := addseg md (immOperand s).toNat s.w s
    done (t.setRes (word32 t.segcnt))

/-- A command on the slot SL: BadSlot where the list has no such slot (R141 to R143). -/
def withSlot (sl : Nat) (s : State) (f : Segment → State) : Host.Outcome State Fault Refusal :=
  match s.segs[sl]? with
  | none => raise .badSlot s
  | some seg => done (f seg)

/-- SEG_MODE (R141). -/
def execSegMode (sl : Nat) (s : State) : Host.Outcome State Fault Refusal :=
  withSlot sl s (fun seg => s.setRes (word32 (modeIndicator seg.mode)))

/-- SEG_COUNT (R142). -/
def execSegCount (sl : Nat) (s : State) : Host.Outcome State Fault Refusal :=
  withSlot sl s (fun seg => s.setRes (word32 seg.count))

/-- SEG_DATA (R143). -/
def execSegData (sl : Nat) (s : State) : Host.Outcome State Fault Refusal :=
  withSlot sl s (fun seg => (s.setW seg.data).setRes (word32 seg.data.length))

/-- LIST_CLEAR (R144). -/
def execListClear (s : State) : Host.Outcome State Fault Refusal := done (s.setSegs [])

/-- LIST_LEN (R145). -/
def execListLen (s : State) : Host.Outcome State Fault Refusal := done (s.setRes (word32 s.segcnt))

end Sys2Proof.Machine
end

