-- ==== Sys2Proof/Machine/Serialize.lean ====
section
/-! DEFINITION. The total bit length and the serializer (R190 to R195). -/
namespace Sys2Proof.Machine

open Sys2Proof.Config (Params)

/-- The loop of `TotalBits(ver)` from an accumulator; `none` is FAIL (R191). -/
def totalBitsFrom (p : Params) (ver : Nat) : Nat → List Segment → Option Nat
  | acc, [] => some acc
  | acc, seg :: rest =>
    if seg.count ≥ 2 ^ ccw p seg.mode ver then none
    else if acc + 4 + ccw p seg.mode ver + seg.data.length > totalLimit then none
    else totalBitsFrom p ver (acc + 4 + ccw p seg.mode ver + seg.data.length) rest

/-- `TotalBits(ver)` of the segment list (R191). -/
def totalBitsOf (s : State) (ver : Nat) : Option Nat := totalBitsFrom s.params ver 0 s.segs

/-- The wire form of one segment at a version (R195). -/
def wire (p : Params) (ver : Nat) (seg : Segment) : Bits :=
  bitsof (modeIndicator seg.mode) 4 ++ bitsof seg.count (ccw p seg.mode ver) ++ seg.data

/-- The wire forms of a list of segments, in list order (R194). -/
def wireAll (p : Params) (ver : Nat) (segs : List Segment) : Bits := segs.flatMap (wire p ver)

/-- TOTAL_BITS (R190). -/
def execTotalBits (vr : Nat) (s : State) : Host.Outcome State Fault Refusal :=
  if legalVersion vr then
    match totalBitsOf s vr with
    | none => capacityExceeded s
    | some r => done (s.setRes (word32 r))
  else raise .badVersion s

/-- OUT_CLEAR (R192). -/
def execOutClear (s : State) : Host.Outcome State Fault Refusal := done (s.setOut [])

/-- OUT_LEN (R193). -/
def execOutLen (s : State) : Host.Outcome State Fault Refusal := done (s.setRes (word32 s.out.length))

/-- SERIALIZE (R194). -/
def execSerialize (vr : Nat) (s : State) : Host.Outcome State Fault Refusal :=
  if legalVersion vr then
    match totalBitsOf s vr with
    | none => capacityExceeded s
    | some r =>
      if s.out.length + r > s.params.oBits then raise .bufferFull s
      else done ((s.setOut (s.out ++ wireAll s.params vr s.segs)).setRes (word32 r))
  else raise .badVersion s

end Sys2Proof.Machine
end

