-- ==== Sys2Proof/Machine/System.lean ====
section
/-! DEFINITION. The system command (R210). -/
namespace Sys2Proof.Machine

/-- NOP: nothing beyond the success commit (R210). -/
def execNop (s : State) : Host.Outcome State Fault Refusal := done s

end Sys2Proof.Machine
end

