-- ==== Sys2Proof/Machine/Dispatch.lean ====
section
/-! DEFINITION. The meaning of every command (R93, R95). -/
namespace Sys2Proof.Machine

def exec (i : Instr) (s : State) : Host.Outcome State Fault Refusal :=
  match i with
  | .nop => Sys2Proof.Machine.execNop s
  | .bbClear => Sys2Proof.Machine.execBbClear s
  | .bbAppend wd => Sys2Proof.Machine.execBbAppend wd s
  | .bbLen => Sys2Proof.Machine.execBbLen s
  | .modeInd md => Sys2Proof.Machine.execModeInd md s
  | .ccw md vr => Sys2Proof.Machine.execCcw md vr s
  | .segMake md => Sys2Proof.Machine.execSegMake md s
  | .segMode sl => Sys2Proof.Machine.execSegMode sl s
  | .segCount sl => Sys2Proof.Machine.execSegCount sl s
  | .segData sl => Sys2Proof.Machine.execSegData sl s
  | .listClear => Sys2Proof.Machine.execListClear s
  | .listLen => Sys2Proof.Machine.execListLen s
  | .segNum => Sys2Proof.Machine.execSegNum s
  | .segAlnum => Sys2Proof.Machine.execSegAlnum s
  | .segBytes => Sys2Proof.Machine.execSegBytes s
  | .segEci => Sys2Proof.Machine.execSegEci s
  | .segAuto => Sys2Proof.Machine.execSegAuto s
  | .totalBits vr => Sys2Proof.Machine.execTotalBits vr s
  | .outClear => Sys2Proof.Machine.execOutClear s
  | .outLen => Sys2Proof.Machine.execOutLen s
  | .serialize vr => Sys2Proof.Machine.execSerialize vr s

end Sys2Proof.Machine
end

