-- ==== Sys2Proof/Machine/Port.lean ====
section
/-! DEFINITION. The host port: issuing a command (R93), reads and writes of the registers and windows (R62 to R71), and
the reset input (R250). Addresses are relative to the block (R72). -/
namespace Sys2Proof.Machine

/-- ID, a constant (R39). -/
def idWord : Word := 0x51530001

/-- The byte address of a word address (R60). -/
def byteAddr (a : PortAddr) : Nat := 4 * a.toNat

/-- The word address of CMD, byte address 0x0014 (R62). -/
def cmdAddr : PortAddr := 0x0005

/-- Decode and execute the command word c (R93): CMDLAST is written whatever c is, and a word that is no command raises
IllegalCommand. -/
def issue (c : Word) (s : State) : Host.Outcome State Fault Refusal :=
  match decode c with
  | .command i => exec i (s.setCmdlast c)
  | .illegal _ => raise .illegalCommand (s.setCmdlast c)

/-- The word a host read returns at a byte address (R62, R63); an unmapped word reads as 0. -/
def portRead (s : State) (a : Nat) : Word :=
  if a = 0x0000 then idWord
  else if a = 0x0004 then statusWord s.status
  else if a = 0x0008 then s.res
  else if a = 0x000C then s.imm
  else if a = 0x0010 then s.inlen
  else if a = 0x0014 then s.cmdlast
  else if 0x1000 ≤ a ∧ a < 0x2000 then inReadWord s (a - 0x1000)
  else if 0x2000 ≤ a ∧ a < 0x3000 then windowWord s.w ((a - 0x2000) / 4)
  else if 0x4000 ≤ a ∧ a < 0x6000 then windowWord s.out ((a - 0x4000) / 4)
  else 0

/-- INLEN after a host write: the value, at most IN_BYTES (R36). -/
def clampInlen (s : State) (d : Word) : Word := word32 (min d.toNat s.params.inBytes)

/-- A host write at a byte address (R62, R63); a write to a read-only or unmapped word is ignored. -/
def portWrite (a : Nat) (d : Word) (s : State) : Host.Outcome State Fault Refusal :=
  if a = 0x0004 then .next (s.setStatus (statusHostWrite s.status d))
  else if a = 0x000C then .next (s.setImm d)
  else if a = 0x0010 then .next (s.setInlen (clampInlen s d))
  else if a = 0x0014 then issue d s
  else if 0x1000 ≤ a ∧ a < 0x2000 then .next (inWriteWord (a - 0x1000) d s)
  else .next s

/-- One event at the port (R60, R69, R250). -/
def perform (e : HostEvent) (s : State) : Host.Outcome State Fault Refusal :=
  match e with
  | .read a => .next (s.setRdata (portRead s (byteAddr a)))
  | .write a d => portWrite (byteAddr a) d s
  | .reset => .next (afterReset s)

/-- The host access that issues command word c (R38). -/
def cmdWrite (c : Word) : HostEvent := .write cmdAddr c

end Sys2Proof.Machine
end

