-- ==== Sys2Proof/Machine/Step.lean ====
section
/-! DEFINITION. One step: the next access of the host (R32, R74). -/
namespace Sys2Proof.Machine

/-- The host's next access takes effect, whole, before the one after it (R69, R74, R260). With none to come the block
is idle and keeps its state (R32, R236, R251). -/
def step (s : State) : Host.Outcome State Fault Refusal :=
  match s.pending with
  | [] => .next s
  | e :: rest => perform e (s.setPending rest)

/-- The state whose very next step issues the command word `w`: the host's next access is the write of it to CMD (R38). -/
def State.withFetchWord (s : State) (nbits w : Nat) : State :=
  s.setPending (cmdWrite (BitVec.ofNat 32 (w % 2 ^ nbits)) :: s.pending)

end Sys2Proof.Machine
end

