-- ==== Sys2Proof/Machine/Assembler.lean ====
section
/-! DEFINITION. The assembler syntax (R100) and the pseudo-instructions (R101): a line of text to the host accesses it
stands for. It is the host's tool: `step` does not use it. -/
namespace Sys2Proof.Machine

/-! Reading text. -/

/-- The text before the first `sep`, and the text after it, if it occurs. -/
def splitFirst (sep : Char) (t : List Char) : List Char × Option (List Char) :=
  let before := t.takeWhile (· ≠ sep)
  (before, if before.length < t.length then some (t.drop (before.length + 1)) else none)

/-- The parts of a text between the characters `sep`. -/
def splitAll (sep : Char) : List Char → List (List Char)
  | [] => [[]]
  | c :: rest =>
    if c = sep then [] :: splitAll sep rest
    else
      match splitAll sep rest with
      | [] => [[c]]
      | part :: parts => (c :: part) :: parts

/-- A text without the blanks around it. -/
def trimBlanks (t : List Char) : List Char := ((t.dropWhile (· = ' ')).reverse.dropWhile (· = ' ')).reverse

/-- The digits of the bases 10 and 16, in order of value (R100). -/
def digitChars : List Char := "0123456789ABCDEF".toList

/-- A digit's value in a base of at most 16: its place among the base's digits. A hexadecimal letter is taken in either
case (log 8). -/
def digitValue (base : Nat) (c : Char) : Option Nat := (digitChars.take base).idxOf? c.toUpper

/-- A digit string's value, from an accumulator. -/
def digitsValue (base : Nat) : Nat → List Char → Option Nat
  | acc, [] => some acc
  | acc, c :: rest => (digitValue base c).bind (fun d => digitsValue base (base * acc + d) rest)

/-- A number: decimal, or hexadecimal with `0x` (R100). -/
def parseNumber : List Char → Option Nat
  | [] => none
  | '0' :: 'x' :: c :: rest => digitsValue 16 0 (c :: rest)
  | t => digitsValue 10 0 t

/-- The value of a pseudo-instruction as `word32` encodes it: -2^31 ≤ n < 2^32 (R10, R101). -/
def parseValue : List Char → Option Word
  | '-' :: t => ((parseNumber t).filter (· ≤ 2 ^ 31)).map (fun n => BitVec.ofInt 32 (-(n : Int)))
  | t => ((parseNumber t).filter (· < 2 ^ 32)).map word32

/-- A quoted text's inside. -/
def parseQuoted : List Char → Option (List Char)
  | '"' :: t =>
    match t.reverse with
    | '"' :: inside => some inside.reverse
    | _ => none
  | _ => none

/-! Commands (R100). -/

/-- The field keys in the order commands list them: w, m, v, s (R100). -/
inductive FieldKey where
  | w
  | m
  | v
  | s
deriving DecidableEq, Repr

/-- A command's opcode and the fields it uses, by mnemonic (R95). -/
def asmTable : List (String × Nat × List FieldKey) :=
  [ ("NOP", 0x00, []), ("BB_CLEAR", 0x01, []), ("BB_APPEND", 0x02, [.w]), ("BB_LEN", 0x03, []),
    ("MODE_IND", 0x04, [.m]), ("CCW", 0x05, [.m, .v]), ("SEG_MAKE", 0x06, [.m]), ("SEG_MODE", 0x07, [.s]),
    ("SEG_COUNT", 0x08, [.s]), ("SEG_DATA", 0x09, [.s]), ("LIST_CLEAR", 0x0A, []), ("LIST_LEN", 0x0B, []) ] ++
  [ ("SEG_NUM", 0x0C, []), ("SEG_ALNUM", 0x0D, []), ("SEG_BYTES", 0x0E, []), ("SEG_ECI", 0x0F, []),
    ("SEG_AUTO", 0x10, []), ("TOTAL_BITS", 0x11, [.v]), ("OUT_CLEAR", 0x12, []), ("OUT_LEN", 0x13, []),
    ("SERIALIZE", 0x14, [.v]) ]

/-- The names of the modes and their indicators (R94). -/
def modeNames : List (String × Nat) := [("NUMERIC", 1), ("ALNUM", 2), ("BYTE", 4), ("ECI", 7), ("KANJI", 8)]

/-- A mode operand: a name, or a number 0..15 (R100). -/
def parseMode (t : List Char) : Option Nat :=
  match modeNames.lookup (String.ofList t) with
  | some n => some n
  | none => (parseNumber t).filter (· ≤ 15)

/-- A field `key=value`, its value in the field's range (R100). -/
def parseField (t : List Char) : Option (FieldKey × Nat) :=
  match splitFirst '=' t with
  | (key, some value) =>
    match trimBlanks key, trimBlanks value with
    | ['w'], x => ((parseNumber x).filter (· ≤ 31)).map (FieldKey.w, ·)
    | ['m'], x => (parseMode x).map (FieldKey.m, ·)
    | ['v'], x => ((parseNumber x).filter (· ≤ 63)).map (FieldKey.v, ·)
    | ['s'], x => ((parseNumber x).filter (· ≤ 63)).map (FieldKey.s, ·)
    | _, _ => none
  | (_, none) => none

/-- A list of fields separated by commas; no text is no field. -/
def parseFields (t : List Char) : Option (List (FieldKey × Nat)) :=
  match trimBlanks t with
  | [] => some []
  | u => (splitAll ',' u).mapM (fun part => parseField part)

/-- The value given for a field, 0 for one that is not given. -/
def fieldValue (fs : List (FieldKey × Nat)) (k : FieldKey) : Nat := (fs.lookup k).getD 0

/-- The command word of a mnemonic and its fields: exactly the fields the command uses, in order (R100, R91). -/
def asmCommand (mnemonic : List Char) (fields : List Char) : Option Word :=
  match asmTable.lookup (String.ofList mnemonic), parseFields fields with
  | some (op, used), some fs =>
    if fs.map Prod.fst = used then
      some (packFields op (fieldValue fs .w) (fieldValue fs .m) (fieldValue fs .v) (fieldValue fs .s))
    else none
  | _, _ => none

/-! Host operations and pseudo-instructions (R100, R101). -/

/-- The byte addresses of the named registers (R62). -/
def regAddrs : List (String × Nat) :=
  [("ID", 0x0000), ("STATUS", 0x0004), ("RES", 0x0008), ("IMM", 0x000C), ("INLEN", 0x0010), ("CMD", 0x0014)]

/-- A register name, or a byte address, as a word address (R60, R100). -/
def parseAddr (t : List Char) : Option PortAddr :=
  let a :=
    match regAddrs.lookup (String.ofList t) with
    | some n => some n
    | none => parseNumber t
  (a.filter (fun n => n % 4 = 0 ∧ n < 0x10000)).map (fun n => BitVec.ofNat 14 (n / 4))

/-- The names a `WR` may give (R100). -/
def writableReg (t : List Char) : Bool :=
  (regAddrs.lookup (String.ofList t)).isNone || (["IMM", "INLEN", "STATUS", "CMD"].contains (String.ofList t))

/-- `word32(v)` written to IMM. -/
def writeImm (v : Word) : HostEvent := .write 0x0003 v

/-- Successive word writes into the IN window from a byte offset, the last word zero-padded (R100). -/
def writeInWords (offset : Nat) : List Nat → List HostEvent
  | [] => []
  | [a] => [.write (BitVec.ofNat 14 ((0x1000 + offset) / 4)) (wordOfBytes a 0 0 0)]
  | [a, b] => [.write (BitVec.ofNat 14 ((0x1000 + offset) / 4)) (wordOfBytes a b 0 0)]
  | [a, b, c] => [.write (BitVec.ofNat 14 ((0x1000 + offset) / 4)) (wordOfBytes a b c 0)]
  | a :: b :: c :: d :: rest =>
    .write (BitVec.ofNat 14 ((0x1000 + offset) / 4)) (wordOfBytes a b c d) :: writeInWords (offset + 4) rest

/-- `utf8(s)`, computed by the host (R101). -/
def utf8Bytes (t : List Char) : List Nat := (t.flatMap String.utf8EncodeChar).map UInt8.toNat

/-- `TEXT "s"`: the bytes, then their number (R101). -/
def asmText (t : List Char) : List HostEvent :=
  writeInWords 0 (utf8Bytes t) ++ [.write 0x0004 (word32 (utf8Bytes t).length)]

/-- The bytes of a `WRIN`: a quoted ASCII text, or byte values separated by commas (R100; log 8). -/
def parseBytes (t : List Char) : Option (List Nat) :=
  match parseQuoted t with
  | some inside => if inside.all (fun c => c.toNat < 128) then some (utf8Bytes inside) else none
  | none => (splitAll ',' t).mapM (fun part => (parseNumber (trimBlanks part)).filter (· < 256))

/-- The two operands of a line, separated by the first comma. -/
def twoOperands (t : List Char) : Option (List Char × List Char) :=
  match splitFirst ',' t with
  | (x, some y) => some (trimBlanks x, trimBlanks y)
  | (_, none) => none

/-- `WR <reg>, <value>` (R100). -/
def asmWr (t : List Char) : Option (List HostEvent) :=
  (twoOperands t).bind fun (r, x) =>
    if writableReg r then
      match parseAddr r, (parseNumber x).filter (· < 2 ^ 32) with
      | some a, some v => some [.write a (word32 v)]
      | _, _ => none
    else none

/-- `RD <reg>` (R100). DESIGN CHOICE: it takes the name of any register of R62, ID and RES among them, or an address; the
spec lists names for `WR` alone (log 8). -/
def asmRd (t : List Char) : Option (List HostEvent) := (parseAddr t).map (fun a => [.read a])

/-- `WRIN <offset>, <bytes>` (R100). -/
def asmWrin (t : List Char) : Option (List HostEvent) :=
  (twoOperands t).bind fun (o, x) =>
    match (parseNumber o).filter (fun n => n % 4 = 0), parseBytes x with
    | some offset, some bytes => if offset + bytes.length ≤ 4096 then some (writeInWords offset bytes) else none
    | _, _ => none

/-- `APPEND <value>, <width>` (R101). -/
def asmAppend (t : List Char) : Option (List HostEvent) :=
  (twoOperands t).bind fun (x, n) =>
    match parseValue x, (parseNumber n).filter (· ≤ 31) with
    | some v, some wd => some [writeImm v, cmdWrite (packFields 0x02 wd 0 0 0)]
    | _, _ => none

/-- `MAKE <mode>, <count>` (R101). -/
def asmMake (t : List Char) : Option (List HostEvent) :=
  (twoOperands t).bind fun (m, x) =>
    match parseMode m, parseValue x with
    | some md, some v => some [writeImm v, cmdWrite (packFields 0x06 0 md 0 0)]
    | _, _ => none

/-- `ECI <value>` (R101). -/
def asmEci (t : List Char) : Option (List HostEvent) :=
  (parseValue t).map (fun v => [writeImm v, cmdWrite (packFields 0x0F 0 0 0 0)])

/-- A line that is a command (R100). -/
def asmCommandLine (t : List Char) : Option (List HostEvent) :=
  let (mnemonic, fields) := splitFirst ' ' (trimBlanks t)
  (asmCommand mnemonic (fields.getD [])).map (fun c => [cmdWrite c])

/-- `RDRES <cmd>` (R101). -/
def asmRdres (t : List Char) : Option (List HostEvent) := (asmCommandLine t).map (· ++ [.read 0x0002])

/-- The host accesses of a line; `none` refuses it, and nothing is assembled (R100, R101). -/
def assembleLine (line : String) : Option (List HostEvent) :=
  let t := trimBlanks line.toList
  let (word, after) := splitFirst ' ' t
  let rest := trimBlanks (after.getD [])
  match String.ofList word with
  | "WR" => asmWr rest
  | "RD" => asmRd rest
  | "WRIN" => asmWrin rest
  | "APPEND" => asmAppend rest
  | "MAKE" => asmMake rest
  | "ECI" => asmEci rest
  | "TEXT" => (parseQuoted rest).bind (fun u => if (utf8Bytes u).length ≤ 4096 then some (asmText u) else none)
  | "CLRERR" => if rest = [] then some [.write 0x0001 0x00000100] else none
  | "RDRES" => asmRdres rest
  | _ => asmCommandLine t

/-- The host accesses of a program: those of its lines in order (R211). -/
def assemble (lines : List String) : List HostEvent := lines.flatMap (fun l => (assembleLine l).getD [])

/-- The machine with a host program still to come after the accesses it has already queued (log 1). -/
def submit (events : List HostEvent) (s : State) : State := s.setPending (s.pending ++ events)

end Sys2Proof.Machine
end

