-- ==== Sys2Proof/Safety.lean ====
section
/-! DEFINITION. The invariant of the machine: what the spec promises of every state after reset. -/
namespace Sys2Proof.Machine

/-- A slot's value is legal (R43). -/
def segmentOk (p : Config.Params) (seg : Segment) : Bool :=
  seg.count < 2 ^ 31 && seg.data.length ≤ p.wBits

/-- The input memory is in canonical form and lists only offsets that IN has (R47). -/
def inputOk (s : State) : Bool := Memory.wf s.input && s.input.all (fun cell => cell.1 < s.params.inBytes)

/-- The parameters meet their constraints (R8), INLEN is at most IN_BYTES (R36), the buffers and slots are within
their capacities (R40 to R43, R124), and the input memory is canonical. -/
structure State.Inv (s : State) : Prop where
  params : paramsValid s.params = true
  inlen : s.inlen.toNat ≤ s.params.inBytes
  w : s.w.length ≤ s.params.wBits
  out : s.out.length ≤ s.params.oBits
  segcnt : s.segcnt ≤ s.params.nSeg
  segs : s.segs.all (segmentOk s.params) = true
  input : inputOk s = true

end Sys2Proof.Machine
end

