-- ==== Sys2Proof/Certificates/Slice0/Obligations.lean ====
section
/-! DEFINITION. The statements for the provers, each from a rule of the spec. -/

/-! The vocabulary of the statements. -/
namespace Sys2Proof.Spec

open Sys2Proof.Machine

/-- STATUS after success: LERR = 0, CAPX = 0, ERRS unchanged (R223). -/
def ok (s : State) : Status := { lerr := .none, capx := false, errs := s.status.errs }

/-- STATUS after an error: LERR = its code, CAPX = 0, ERRS = 1 (R222). -/
def failed (e : LErr) : Status := { lerr := e, capx := false, errs := true }

/-- STATUS after the capacity outcome: LERR = 0, CAPX = 1, ERRS unchanged (R224). -/
def overCapacity (s : State) : Status := { lerr := .none, capx := true, errs := s.status.errs }

/-- The word is no command. -/
def Illegal (c : Word) : Prop := ∃ e, decode c = .illegal e

/-- The words of a command without fields: OP alone; every other word with that OP is illegal. -/
def PlainWords (op : Nat) (i : Instr) : Prop :=
  ∀ c : Word, c.toNat % 64 = op →
    (c.toNat = op → decode c = .command i) ∧ (c.toNat ≠ op → Illegal c)

/-- The words of a command that uses WD = c[10:6] alone. -/
def WidthWords (op : Nat) (f : Nat → Instr) : Prop :=
  ∀ c : Word, c.toNat % 64 = op →
    (c.toNat / 2 ^ 11 = 0 → decode c = .command (f (c.toNat / 2 ^ 6 % 32))) ∧ (c.toNat / 2 ^ 11 ≠ 0 → Illegal c)

/-- The words of a command that uses MD = c[14:11] alone: MD must be the indicator of a mode. -/
def ModeWords (op : Nat) (f : Mode → Instr) : Prop :=
  ∀ c : Word, c.toNat % 64 = op →
    (c.toNat / 2 ^ 6 % 32 = 0 ∧ c.toNat / 2 ^ 15 = 0 →
      (∀ m, c.toNat / 2 ^ 11 % 16 = modeIndicator m → decode c = .command (f m)) ∧
      (c.toNat / 2 ^ 11 % 16 ∉ [1, 2, 4, 7, 8] → Illegal c)) ∧
    (¬(c.toNat / 2 ^ 6 % 32 = 0 ∧ c.toNat / 2 ^ 15 = 0) → Illegal c)

/-- The words of a command that uses MD = c[14:11] and VR = c[20:15]. -/
def ModeVersionWords (op : Nat) (f : Mode → Nat → Instr) : Prop :=
  ∀ c : Word, c.toNat % 64 = op →
    (c.toNat / 2 ^ 6 % 32 = 0 ∧ c.toNat / 2 ^ 21 = 0 →
      (∀ m, c.toNat / 2 ^ 11 % 16 = modeIndicator m → decode c = .command (f m (c.toNat / 2 ^ 15 % 64))) ∧
      (c.toNat / 2 ^ 11 % 16 ∉ [1, 2, 4, 7, 8] → Illegal c)) ∧
    (¬(c.toNat / 2 ^ 6 % 32 = 0 ∧ c.toNat / 2 ^ 21 = 0) → Illegal c)

/-- The words of a command that uses SL = c[26:21] alone. -/
def SlotWords (op : Nat) (f : Nat → Instr) : Prop :=
  ∀ c : Word, c.toNat % 64 = op →
    (c.toNat / 2 ^ 6 % 2 ^ 15 = 0 ∧ c.toNat / 2 ^ 27 = 0 → decode c = .command (f (c.toNat / 2 ^ 21 % 64))) ∧
    (¬(c.toNat / 2 ^ 6 % 2 ^ 15 = 0 ∧ c.toNat / 2 ^ 27 = 0) → Illegal c)

/-- The words of a command that uses VR = c[20:15] alone. -/
def VersionWords (op : Nat) (f : Nat → Instr) : Prop :=
  ∀ c : Word, c.toNat % 64 = op →
    (c.toNat / 2 ^ 6 % 2 ^ 9 = 0 ∧ c.toNat / 2 ^ 21 = 0 → decode c = .command (f (c.toNat / 2 ^ 15 % 64))) ∧
    (¬(c.toNat / 2 ^ 6 % 2 ^ 9 = 0 ∧ c.toNat / 2 ^ 21 = 0) → Illegal c)

/-- Every byte of the input IN[0..INLEN-1] is an ASCII digit (R16). -/
def AllDigits (s : State) : Prop :=
  ∀ k, k < s.inlen.toNat → 0x30 ≤ (inByte s k).toNat ∧ (inByte s k).toNat ≤ 0x39

/-- Every byte of the input is in the 45-symbol set (R16). -/
def AllAlnum (s : State) : Prop := ∀ k, k < s.inlen.toNat → isAlnum (inByte s k) = true

/-- `B` is the numeric payload of the input: a 10-bit field for each group of three digits, from the start, then 7 bits
for two remaining digits or 4 bits for one (R161, R162). -/
def IsNumericPayload (s : State) (B : Bits) : Prop :=
  let d := fun k => (inByte s k).toNat - 0x30
  let L := s.inlen.toNat
  B.length = 10 * (L / 3) + (if L % 3 = 1 then 4 else if L % 3 = 2 then 7 else 0) ∧
  (∀ k, k < L / 3 → (B.drop (10 * k)).take 10 = bitsof (100 * d (3 * k) + 10 * d (3 * k + 1) + d (3 * k + 2)) 10) ∧
  (L % 3 = 1 → B.drop (10 * (L / 3)) = bitsof (d (L - 1)) 4) ∧
  (L % 3 = 2 → B.drop (10 * (L / 3)) = bitsof (10 * d (L - 2) + d (L - 1)) 7)

/-- `B` is the alphanumeric payload of the input: 11 bits for each pair, 6 for a trailing character (R163). -/
def IsAlnumPayload (s : State) (B : Bits) : Prop :=
  let x := fun k => alnumIndex (inByte s k)
  let L := s.inlen.toNat
  B.length = 11 * (L / 2) + (if L % 2 = 1 then 6 else 0) ∧
  (∀ k, k < L / 2 → (B.drop (11 * k)).take 11 = bitsof (45 * x (2 * k) + x (2 * k + 1)) 11) ∧
  (L % 2 = 1 → B.drop (11 * (L / 2)) = bitsof (x (L - 1)) 6)

/-- `B` is the byte payload of the input: 8 bits a byte (R164). -/
def IsBytePayload (s : State) (B : Bits) : Prop :=
  B.length = 8 * s.inlen.toNat ∧
  (∀ k, k < s.inlen.toNat → (B.drop (8 * k)).take 8 = bitsof (inByte s k).toNat 8)

/-- The state a factory leaves when it succeeds: the payload in W, the segment last in the list, the new list length in
RES (R160). -/
def afterFactory (s : State) (m : Mode) (n : Nat) (B : Bits) : State :=
  { s with
    w := B
    segs := s.segs ++ [{ mode := m, count := n, data := B }]
    res := BitVec.ofNat 32 (s.segs.length + 1)
    status := ok s }

/-- How `FactoryCommit` ends with a payload `B`: a full list is ListFull, a payload over WBITS is BufferFull, and
otherwise the segment is made (R160). -/
def CommitsFactory (i : Instr) (s : State) (m : Mode) (n : Nat) (B : Bits) : Prop :=
  (s.segs.length = s.params.nSeg → exec i s = .next { s with status := failed .listFull }) ∧
  (s.segs.length ≠ s.params.nSeg → B.length > s.params.wBits → exec i s = .next { s with status := failed .bufferFull }) ∧
  (s.segs.length ≠ s.params.nSeg → B.length ≤ s.params.wBits → exec i s = .next (afterFactory s m n B))

/-- The sum of 4 + ccbits + data bits over a segment list (R191). -/
def totalLength (p : Config.Params) (ver : Nat) (segs : List Segment) : Nat :=
  (segs.map (fun g => 4 + ccw p g.mode ver + g.data.length)).sum

/-- Every count fits its field, and the total fits 31 bits (R191). -/
def Fits (p : Config.Params) (ver : Nat) (segs : List Segment) : Prop :=
  (∀ g ∈ segs, g.count < 2 ^ ccw p g.mode ver) ∧ totalLength p ver segs ≤ 2147483647

/-- The wire format of a segment list: mode nibble, count field and payload of each segment, in list order (R194, R195). -/
def wireFormat (p : Config.Params) (ver : Nat) (segs : List Segment) : Bits :=
  (segs.map (fun g => bitsof (modeIndicator g.mode) 4 ++ bitsof g.count (ccw p g.mode ver) ++ g.data)).flatten

/-- Reading an ECI designator (R168). -/
def eciValue (B : Bits) : Nat :=
  if B[0]? = some false then natOfBits (B.take 8)
  else if B[1]? = some false then natOfBits ((B.drop 2).take 14)
  else natOfBits ((B.drop 3).take 21)

/-! The conditions that an error or the capacity outcome reports (R220, R226). -/

/-- BadVersion's condition. -/
def VersionIllegal : Instr → Prop
  | .ccw _ v | .totalBits v | .serialize v => v < 1 ∨ 40 < v
  | _ => False

/-- BadSlot's condition. -/
def SlotMissing (s : State) : Instr → Prop
  | .segMode sl | .segCount sl | .segData sl => s.segs.length ≤ sl
  | _ => False

/-- InvalidArgument's condition. -/
def ArgumentInvalid (s : State) : Instr → Prop
  | .bbAppend n => s.imm.toInt < 0 ∨ 2 ^ n ≤ s.imm.toInt
  | .segMake _ => s.imm.toInt < 0
  | .segEci => s.imm.toInt < 0 ∨ 1000000 ≤ s.imm.toInt
  | .segNum => ¬AllDigits s
  | .segAlnum => ¬AllAlnum s
  | _ => False

/-- The capacity outcome's condition. -/
def CapacityMissed (s : State) : Instr → Prop
  | .totalBits v | .serialize v => ¬Fits s.params v s.segs
  | _ => False

/-- ListFull's condition. -/
def ListIsFull (s : State) : Instr → Prop
  | .segMake _ | .segNum | .segAlnum | .segBytes | .segEci => s.segs.length = s.params.nSeg
  | .segAuto => s.inlen.toNat ≠ 0 ∧ s.segs.length = s.params.nSeg
  | _ => False

/-- BufferFull's condition; a factory never meets it under the constraints of R8 (R221). -/
def BufferIsFull (s : State) : Instr → Prop
  | .bbAppend n => s.params.wBits < s.w.length + n
  | .serialize v => s.params.oBits < s.out.length + totalLength s.params v s.segs
  | _ => False

/-- The state fields that no command writes: the host's registers, the input memory and the parameters; and ERRS, which a
command never clears and sets only with an error. -/
def HostStateKept (s t : State) : Prop :=
  t.imm = s.imm ∧ t.inlen = s.inlen ∧ t.cmdlast = s.cmdlast ∧ t.params = s.params ∧ t.pending = s.pending ∧
    t.rdata = s.rdata ∧ (s.status.errs = true → t.status.errs = true) ∧
    (t.status.lerr = .none → t.status.errs = s.status.errs) ∧ ∀ o, inByte t o = inByte s o

/-- The error codes a command can report when its word is legal (R221). -/
def reportable : Instr → List LErr
  | .nop | .bbClear | .bbLen | .modeInd _ | .listClear | .listLen | .outClear | .outLen => [.none]
  | .bbAppend _ => [.none, .invalidArgument, .bufferFull]
  | .ccw _ _ => [.none, .badVersion]
  | .segMake _ => [.none, .invalidArgument, .listFull]
  | .segMode _ | .segCount _ | .segData _ => [.none, .badSlot]
  | .segNum | .segAlnum | .segEci => [.none, .invalidArgument, .listFull]
  | .segBytes | .segAuto => [.none, .listFull]
  | .totalBits _ => [.none, .badVersion]
  | .serialize _ => [.none, .badVersion, .bufferFull]

/-- The fields a command uses, by opcode (R95): WD, MD, VR, SL. -/
def usesWD (op : Nat) : Prop := op = 0x02
def usesMD (op : Nat) : Prop := op = 0x04 ∨ op = 0x05 ∨ op = 0x06
def usesVR (op : Nat) : Prop := op = 0x05 ∨ op = 0x11 ∨ op = 0x14
def usesSL (op : Nat) : Prop := op = 0x07 ∨ op = 0x08 ∨ op = 0x09

/-- The row of CCW_TABLE of each mode, by the table's field of its name (R131). -/
def tableRow (t : Config.CcwTable) : Mode → Config.CcwRow
  | .numeric => t.numeric
  | .alphanumeric => t.alphanumeric
  | .byte => t.byte
  | .kanji => t.kanji
  | .eci => t.eci

/-- A line of assembler, its word, and the command the word stands for (R100, R102). -/
def Listed (line : String) (c : Word) (i : Instr) : Prop :=
  assembleLine line = some [.write 0x0005 c] ∧ decode c = .command i ∧ encode i = c

/-- The 45 symbols in order (R16). -/
def alnumList : List Byte :=
  "0123456789ABCDEFGHIJKLMNOPQRSTUVWXYZ $%*+-./:".toList.map (fun ch => BitVec.ofNat 8 ch.toNat)

end Sys2Proof.Spec

open Sys2Proof Sys2Proof.Machine Sys2Proof.Spec

/-! Encoding (30_encoding.md). -/

/-- R91, R95: decoding the word of a well-formed command gives it back, with every field. -/
def Obligations.DecodeOfEncodeIsTheCommand : Prop :=
  ∀ i : Instr, i.wellFormed = true → decode (encode i) = .command i

/-- R97: a word that decodes to a command is the encoding of it, and of no other. -/
def Obligations.EncodeOfDecodeIsTheWord : Prop :=
  ∀ (c : Word) (i : Instr), decode c = .command i → i.wellFormed = true ∧ encode i = c

/-- R96: exactly the reserved opcodes, the nonzero RSV or unused fields and the MD codes of no mode are illegal, the zero
word is NOP, and an illegal word does nothing but report its error. -/
def Obligations.IllegalWordsAreTheReservedOnes : Prop :=
  (∀ c : Word, Illegal c ↔
    (0x14 < c.toNat % 64 ∨ c.toNat / 2 ^ 27 ≠ 0 ∨
      (¬usesWD (c.toNat % 64) ∧ c.toNat / 2 ^ 6 % 32 ≠ 0) ∨ (¬usesMD (c.toNat % 64) ∧ c.toNat / 2 ^ 11 % 16 ≠ 0) ∨
      (¬usesVR (c.toNat % 64) ∧ c.toNat / 2 ^ 15 % 64 ≠ 0) ∨ (¬usesSL (c.toNat % 64) ∧ c.toNat / 2 ^ 21 % 64 ≠ 0) ∨
      (usesMD (c.toNat % 64) ∧ c.toNat / 2 ^ 11 % 16 ∉ [1, 2, 4, 7, 8]))) ∧
  decode 0x00000000 = .command .nop ∧
  (∀ (s : State) (c : Word) (rest : List HostEvent), s.pending = .write 0x0005 c :: rest → Illegal c →
    step s = .next { s with pending := rest, cmdlast := c, status := failed .illegalCommand })

/-- R97: every word is a command, by a row of the opcode map that it matches, or it is illegal; no word matches two rows;
694 words are commands. -/
def Obligations.LegalWordsNumberSixHundredNinetyFour : Prop :=
  (∀ c : Word, Illegal c ∨ ∃ (i : Instr) (op : Nat) (row : OpcodeRow), decode c = .command i ∧
    opcodeMap[op]? = some row ∧ c &&& row.mask = row.pattern) ∧
  (∀ (j k : Nat) (r q : OpcodeRow) (c : Word), opcodeMap[j]? = some r → opcodeMap[k]? = some q →
    c &&& r.mask = r.pattern → c &&& q.mask = q.pattern → j = k) ∧
  (∃ l : List Word, l.Nodup ∧ l.length = 694 ∧ ∀ c : Word, c ∈ l ↔ ∃ i, decode c = .command i)

/-- R102: each line of the spec's table assembles to its word, and the word decodes to the command of the line. -/
def Obligations.CommonWordsAreTheListedOnes : Prop :=
  Listed "BB_APPEND w=4" 0x00000102 (.bbAppend 4) ∧
  Listed "BB_APPEND w=10" 0x00000282 (.bbAppend 10) ∧
  Listed "BB_APPEND w=31" 0x000007C2 (.bbAppend 31) ∧
  Listed "MODE_IND m=KANJI" 0x00004004 (.modeInd .kanji) ∧
  Listed "CCW m=NUMERIC, v=1" 0x00008805 (.ccw .numeric 1) ∧
  Listed "CCW m=ALNUM, v=9" 0x00049005 (.ccw .alphanumeric 9) ∧
  Listed "CCW m=BYTE, v=10" 0x00052005 (.ccw .byte 10) ∧
  Listed "CCW m=KANJI, v=27" 0x000DC005 (.ccw .kanji 27) ∧
  Listed "CCW m=ECI, v=40" 0x00143805 (.ccw .eci 40) ∧
  Listed "SEG_MAKE m=NUMERIC" 0x00000806 (.segMake .numeric) ∧
  Listed "SEG_MODE s=1" 0x00200007 (.segMode 1) ∧
  Listed "SEG_DATA s=0" 0x00000009 (.segData 0) ∧
  Listed "TOTAL_BITS v=1" 0x00008011 (.totalBits 1) ∧
  Listed "TOTAL_BITS v=10" 0x00050011 (.totalBits 10) ∧
  Listed "SERIALIZE v=1" 0x00008014 (.serialize 1)

/-- R94: the five mode codes, each naming its mode; every other code names none. -/
def Obligations.ModeCodesNameTheFiveModes : Prop :=
  (∀ m : Mode, modeOfIndicator (modeIndicator m) = some m) ∧
  (modeIndicator .numeric = 1 ∧ modeIndicator .alphanumeric = 2 ∧ modeIndicator .byte = 4 ∧ modeIndicator .eci = 7 ∧
    modeIndicator .kanji = 8) ∧
  (∀ md : Nat, md ∉ [1, 2, 4, 7, 8] → modeOfIndicator md = none)

/-! The step and the host port (10_state.md, 20_memory.md). -/

/-- R93: a CMD write of a word that decodes to a command runs the command, with CMDLAST holding the word. -/
def Obligations.StepRunsTheDecodedCommand : Prop :=
  ∀ (s : State) (c : Word) (i : Instr) (rest : List HostEvent),
    s.pending = .write 0x0005 c :: rest → decode c = .command i →
    step s = exec i { s with pending := rest, cmdlast := c }

/-- R38: every CMD write sets CMDLAST, whether the command succeeds, fails or is illegal; a read of CMD returns it and
issues nothing. -/
def Obligations.CmdlastHoldsTheLatestCommandWord : Prop :=
  (∀ (s : State) (c : Word) (rest : List HostEvent), s.pending = .write 0x0005 c :: rest →
    ∃ t, step s = .next t ∧ t.cmdlast = c ∧ t.pending = rest) ∧
  (∀ (s : State) (rest : List HostEvent), s.pending = .read 0x0005 :: rest →
    step s = .next { s with pending := rest, rdata := s.cmdlast })

/-- R69: a host read changes nothing; the port returns the word of its address. (`pending` and `rdata` are the model's
own, log 1.) -/
def Obligations.HostReadChangesNothing : Prop :=
  ∀ (s : State) (a : PortAddr) (rest : List HostEvent), s.pending = .read a :: rest →
    step s = .next { s with pending := rest, rdata := portRead s (4 * a.toNat) }

/-- R32, R236: with no access to come the block is idle and keeps its state. (That a step exists then is the model's,
log 1.) -/
def Obligations.IdleBlockKeepsItsState : Prop :=
  ∀ s : State, s.pending = [] → step s = .next s

/-- R62: the register map, reads and writes. -/
def Obligations.RegisterMapReadsAndWrites : Prop :=
  (∀ s : State, portRead s 0x0000 = 0x51530001 ∧ portRead s 0x0004 = statusWord s.status ∧ portRead s 0x0008 = s.res ∧
    portRead s 0x000C = s.imm ∧ portRead s 0x0010 = s.inlen ∧ portRead s 0x0014 = s.cmdlast ∧
    ∀ a, 0x0018 ≤ a → a ≤ 0x0FFC → portRead s a = 0) ∧
  (∀ (s : State) (a : PortAddr) (d : Word) (rest : List HostEvent), s.pending = .write a d :: rest →
    (4 * a.toNat = 0x0000 → step s = .next { s with pending := rest }) ∧
    (4 * a.toNat = 0x0004 → step s = .next { s with pending := rest, status :=
      { s.status with errs := if d.getLsbD 8 = true then false else s.status.errs } }) ∧
    (4 * a.toNat = 0x0008 → step s = .next { s with pending := rest }) ∧
    (4 * a.toNat = 0x000C → step s = .next { s with pending := rest, imm := d }) ∧
    (4 * a.toNat = 0x0010 → step s = .next { s with
      pending := rest, inlen := BitVec.ofNat 32 (min d.toNat s.params.inBytes) }) ∧
    (4 * a.toNat = 0x0014 → step s = issue d { s with pending := rest }) ∧
    (0x0018 ≤ 4 * a.toNat → 4 * a.toNat ≤ 0x0FFC → step s = .next { s with pending := rest }))

/-- R37, R220: the places of LERR, CAPX and ERRS in STATUS, the reserved bits, which read as 0, and the code of each
error. -/
def Obligations.StatusWordPlacesItsFields : Prop :=
  (lerrCode .none = 0 ∧ lerrCode .invalidArgument = 1 ∧ lerrCode .illegalCommand = 2 ∧ lerrCode .badVersion = 3 ∧
    lerrCode .badSlot = 4 ∧ lerrCode .listFull = 5 ∧ lerrCode .bufferFull = 6) ∧
  ∀ st : Status, (statusWord st).toNat % 16 = lerrCode st.lerr ∧ (statusWord st).getLsbD 4 = st.capx ∧
    (statusWord st).getLsbD 8 = st.errs ∧
    (∀ k, (5 ≤ k ∧ k ≤ 7) ∨ 9 ≤ k → (statusWord st).getLsbD k = false)

/-- R213: a host write to STATUS with bit 8 = 1 clears ERRS and changes nothing else. -/
def Obligations.StatusWriteClearsErrs : Prop :=
  ∀ (s : State) (d : Word) (rest : List HostEvent), s.pending = .write 0x0001 d :: rest → d.getLsbD 8 = true →
    step s = .next { s with pending := rest, status := { s.status with errs := false } }

/-- R229, R37: ERRS falls only by a host write to STATUS with bit 8 = 1, or by reset. -/
def Obligations.ErrsFallsOnlyByHostWriteOrReset : Prop :=
  ∀ s t : State, step s = .next t → s.status.errs = true → t.status.errs = false →
    (∃ d rest, s.pending = .write 0x0001 d :: rest ∧ d.getLsbD 8 = true) ∨ (∃ rest, s.pending = .reset :: rest)

/-- R36: a host write of INLEN stores at most IN_BYTES; a read returns the stored value. -/
def Obligations.InlenWriteIsClamped : Prop :=
  (∀ (s : State) (d : Word) (rest : List HostEvent), paramsValid s.params = true →
    s.pending = .write 0x0004 d :: rest →
    ∃ t, step s = .next t ∧ t = { s with pending := rest, inlen := t.inlen } ∧
      t.inlen.toNat = min d.toNat s.params.inBytes ∧ t.inlen.toNat ≤ s.params.inBytes) ∧
  (∀ (s : State) (rest : List HostEvent), s.pending = .read 0x0004 :: rest →
    step s = .next { s with pending := rest, rdata := s.inlen })

/-- R63: the unmapped ranges read as 0, and a write to them or to the W and OUT windows is ignored. -/
def Obligations.UnmappedReadsZeroAndStrayWritesAreIgnored : Prop :=
  (∀ (s : State) (a : Nat), (0x3000 ≤ a ∧ a ≤ 0x3FFF) ∨ (0x6000 ≤ a ∧ a ≤ 0xFFFF) → portRead s a = 0) ∧
  (∀ (s : State) (a : PortAddr) (d : Word) (rest : List HostEvent), s.pending = .write a d :: rest →
    0x2000 ≤ 4 * a.toNat → step s = .next { s with pending := rest })

/-- R64: a read of the W or OUT window returns bits 8k..8k+7 of the buffer in byte k, the first bit in the byte's most
significant place, the four bytes of a word little-endian, 0 past the buffer's end, and changes nothing. -/
def Obligations.BufferWindowsArePackedMsbFirst : Prop :=
  (∀ (s : State) (a : PortAddr) (rest : List HostEvent) (j : Nat), s.pending = .read a :: rest → j < 1024 →
    4 * a.toNat = 0x2000 + 4 * j → ∃ word, step s = .next { s with pending := rest, rdata := word } ∧
      ∀ b t, b < 4 → t < 8 → word.getLsbD (8 * b + (7 - t)) = (s.w[8 * (4 * j + b) + t]?).getD false) ∧
  (∀ (s : State) (a : PortAddr) (rest : List HostEvent) (j : Nat), s.pending = .read a :: rest → j < 2048 →
    4 * a.toNat = 0x4000 + 4 * j → ∃ word, step s = .next { s with pending := rest, rdata := word } ∧
      ∀ b t, b < 4 → t < 8 → word.getLsbD (8 * b + (7 - t)) = (s.out[8 * (4 * j + b) + t]?).getD false)

/-- R71: a word write of the IN window stores its four bytes, least significant first, drops those past IN_BYTES and
changes nothing else; a read returns the four bytes, 0 past IN_BYTES; an unwritten byte is a free value. -/
def Obligations.InWindowMovesFourBytes : Prop :=
  (∀ (s : State) (a : PortAddr) (d : Word) (rest : List HostEvent) (o : Nat), s.pending = .write a d :: rest →
    4 * a.toNat = 0x1000 + o → o < 4096 → ∃ t, step s = .next t ∧ t = { s with pending := rest, input := t.input } ∧
      ∀ x, inByte t x = if o ≤ x ∧ x < o + 4 ∧ x < s.params.inBytes then
        BitVec.ofNat 8 (d.toNat / 2 ^ (8 * (x - o))) else inByte s x) ∧
  (∀ (s : State) (a : PortAddr) (rest : List HostEvent) (o : Nat), s.pending = .read a :: rest →
    4 * a.toNat = 0x1000 + o → o < 4096 → ∃ word, step s = .next { s with pending := rest, rdata := word } ∧
      ∀ k, k < 4 → word.toNat / 2 ^ (8 * k) % 256 =
        if o + k < s.params.inBytes then (inByte s (o + k)).toNat else 0) ∧
  (∀ (s : State) (o : Nat), o < s.params.inBytes → memGet s.input o = none →
    inByte s o = Config.inUnwritten s.inEpoch o)

/-- R67, R74: a word written to the IN window is read back from it. -/
def Obligations.InWindowReadReturnsTheWrittenWord : Prop :=
  ∀ (s : State) (a : PortAddr) (d : Word) (rest : List HostEvent),
    s.pending = .write a d :: .read a :: rest → 0x1000 ≤ 4 * a.toNat → 4 * a.toNat < 0x2000 →
    4 * a.toNat + 4 ≤ 0x1000 + s.params.inBytes →
    ∃ t u, step s = .next t ∧ step t = .next u ∧ u.rdata = d ∧ u.pending = rest

/-! Reset and whole-machine rules (10_state.md, 60_exceptions.md, 70_reset_and_hazards.md). -/

/-- R49: the reset values; the bytes of IN are unspecified, free values. -/
def Obligations.ResetValuesAreTheListedOnes : Prop :=
  portRead State.reset 0x0000 = 0x51530001 ∧ statusWord State.reset.status = 0x00000000 ∧
  State.reset.status = { lerr := .none, capx := false, errs := false } ∧ State.reset.res = 0x00000000 ∧
  State.reset.imm = 0x00000000 ∧ State.reset.inlen = 0 ∧ State.reset.cmdlast = 0x00000000 ∧ State.reset.w = [] ∧
  State.reset.out = [] ∧ State.reset.segs.length = 0 ∧
  ∀ o, o < State.reset.params.inBytes → inByte State.reset o = Config.inUnwritten State.reset.inEpoch o

/-- R250: the reset input sets every register and buffer to its reset value, and leaves IN unspecified. (That IN's bytes
are new free values, and that a step performs the reset, are the model's choices, log 1 and 2.) -/
def Obligations.ResetInputRestoresTheResetValues : Prop :=
  ∀ (s : State) (rest : List HostEvent), s.pending = .reset :: rest →
    ∃ t, step s = .next t ∧ t.status = { lerr := .none, capx := false, errs := false } ∧ t.res = 0 ∧ t.imm = 0 ∧
      t.inlen = 0 ∧ t.cmdlast = 0 ∧ t.w = [] ∧ t.out = [] ∧ t.segs = [] ∧ t.params = s.params ∧ t.pending = rest ∧
      ∀ o, o < s.params.inBytes → inByte t o = Config.inUnwritten t.inEpoch o

/-- R8: no step changes the machine's parameters. (That they stand in the state is the model's choice, log 3.) -/
def Obligations.ParametersNeverChange : Prop := ∀ s t : State, step s = .next t → t.params = s.params

/-- R33 to R38, R40 to R42, R47: what each host access can change. Reset apart, IMM, INLEN and IN change only by a host write
at their own address; RES, W, OUT, the list and CMDLAST only by a CMD write; STATUS only by a CMD write or a write to STATUS,
its fields LERR and CAPX only by a CMD write. -/
def Obligations.StateChangesOnlyByItsOwnAccess : Prop :=
  ∀ s t : State, step s = .next t → (∀ rest, s.pending ≠ .reset :: rest) →
    (t.imm ≠ s.imm → ∃ d rest, s.pending = .write 0x0003 d :: rest) ∧
    (t.inlen ≠ s.inlen → ∃ d rest, s.pending = .write 0x0004 d :: rest) ∧
    (t.input ≠ s.input → ∃ a d rest, s.pending = .write a d :: rest ∧ 0x1000 ≤ 4 * a.toNat ∧ 4 * a.toNat < 0x2000) ∧
    ((t.res ≠ s.res ∨ t.w ≠ s.w ∨ t.out ≠ s.out ∨ t.segs ≠ s.segs ∨ t.cmdlast ≠ s.cmdlast) →
      ∃ c rest, s.pending = .write 0x0005 c :: rest) ∧
    (t.status ≠ s.status →
      (∃ c rest, s.pending = .write 0x0005 c :: rest) ∨ (∃ d rest, s.pending = .write 0x0001 d :: rest)) ∧
    ((t.status.lerr ≠ s.status.lerr ∨ t.status.capx ≠ s.status.capx) → ∃ c rest, s.pending = .write 0x0005 c :: rest)

/-- R8, R36, R49: the reset state meets the invariant. -/
def Obligations.ResetStateMeetsTheInvariant : Prop := State.reset.Inv

/-- R36, R42, R43, R124: every step, whatever the host's access, keeps the parameters legal, INLEN within IN, the
buffers, slots and list within their capacities, the counts below 2^31 and the input memory canonical. -/
def Obligations.EveryStepKeepsTheInvariant : Prop :=
  ∀ s t : State, s.Inv → step s = .next t → t.Inv

/-- R230: no step faults or refuses; every one answers a next state. -/
def Obligations.EveryStepAnswersANextState : Prop := ∀ s : State, ∃ t, step s = .next t

/-- R222, R224: a command word either raises an error, which changes nothing but CMDLAST and STATUS, or (TOTAL_BITS and
SERIALIZE only) ends with the capacity outcome, which sets RES to the sentinel, or succeeds. -/
def Obligations.CommandWordEndsInOneOfThreeOutcomes : Prop :=
  ∀ (s : State) (c : Word) (rest : List HostEvent), s.pending = .write 0x0005 c :: rest →
    (∃ e, e ≠ .none ∧ step s = .next { s with pending := rest, cmdlast := c, status := failed e }) ∨
    ((∃ v, decode c = .command (.totalBits v) ∨ decode c = .command (.serialize v)) ∧
      step s = .next { s with pending := rest, cmdlast := c, res := 0xFFFFFFFF, status := overCapacity s }) ∨
    (∃ t, step s = .next t ∧ t.status = ok s ∧ t.cmdlast = c ∧ t.pending = rest)

/-- R226: of the conditions that apply, a command reports the first in the order IllegalCommand, BadVersion, BadSlot,
InvalidArgument, the capacity outcome, ListFull, BufferFull; where none applies it succeeds. -/
def Obligations.FirstApplicableConditionIsReported : Prop :=
  ∀ (s s' : State) (c : Word) (rest : List HostEvent), s.Inv → s.pending = .write 0x0005 c :: rest →
    s' = { s with pending := rest, cmdlast := c } →
    (Illegal c → step s = .next { s' with status := failed .illegalCommand }) ∧
    (∀ i, decode c = .command i →
      (VersionIllegal i → step s = .next { s' with status := failed .badVersion }) ∧
      (¬VersionIllegal i → SlotMissing s i → step s = .next { s' with status := failed .badSlot }) ∧
      (¬VersionIllegal i → ¬SlotMissing s i → ArgumentInvalid s i →
        step s = .next { s' with status := failed .invalidArgument }) ∧
      (¬VersionIllegal i → ¬SlotMissing s i → ¬ArgumentInvalid s i → CapacityMissed s i →
        step s = .next { s' with res := 0xFFFFFFFF, status := overCapacity s }) ∧
      (¬VersionIllegal i → ¬SlotMissing s i → ¬ArgumentInvalid s i → ¬CapacityMissed s i → ListIsFull s i →
        step s = .next { s' with status := failed .listFull }) ∧
      (¬VersionIllegal i → ¬SlotMissing s i → ¬ArgumentInvalid s i → ¬CapacityMissed s i → ¬ListIsFull s i →
        BufferIsFull s i → step s = .next { s' with status := failed .bufferFull }) ∧
      (¬VersionIllegal i → ¬SlotMissing s i → ¬ArgumentInvalid s i → ¬CapacityMissed s i → ¬ListIsFull s i →
        ¬BufferIsFull s i → ∃ t, step s = .next t ∧ t.status = ok s))

/-- R221: the errors each command can report, and the commands that can end with the capacity outcome. -/
def Obligations.EachCommandReportsOnlyItsOutcomes : Prop :=
  ∀ (i : Instr) (s t : State), s.Inv → exec i s = .next t →
    t.status.lerr ∈ reportable i ∧ (t.status.capx = true → ∃ v, i = .totalBits v ∨ i = .serialize v)

/-- R42: a command leaves the segment list as it is, adds one segment at its end, or (LIST_CLEAR) empties it. -/
def Obligations.SegmentListGrowsAtItsEndOrIsCleared : Prop :=
  ∀ (i : Instr) (s t : State), exec i s = .next t →
    t.segs = s.segs ∨ (i = .listClear ∧ t.segs = []) ∨
      (((∃ m, i = .segMake m) ∨ i ∈ [.segNum, .segAlnum, .segBytes, .segEci, .segAuto]) ∧
        ∃ g : Segment, t.segs = s.segs ++ [g])

/-- R147: over any run without reset and without LIST_CLEAR, every segment of the list stays what it was. -/
def Obligations.SegmentsStayUnchangedOverARun : Prop :=
  ∀ (n : Nat) (s t : State) (k : Nat) (g : Segment), s.segs[k]? = some g →
    (∀ e ∈ s.pending, e ≠ .reset ∧ e ≠ .write 0x0005 0x0000000A) →
    Host.Core.run Sys2Proof.core n s = .next t → t.segs[k]? = some g

/-- R44: SEG_DATA returns the W that SEG_MAKE stored, whatever command (LIST_CLEAR apart) ran in between. -/
def Obligations.SegDataReturnsWhatSegMakeStored : Prop :=
  ∀ (m : Mode) (i : Instr) (s t u : State), 0 ≤ s.imm.toInt → s.segs.length ≠ s.params.nSeg →
    exec (.segMake m) s = .next t → i ≠ .listClear → exec i t = .next u →
    ∃ v, exec (.segData s.segs.length) u = .next v ∧ v.w = s.w ∧ v.status.lerr = .none

/-- R70: a command reads IN only below INLEN: two states that agree there, and outside IN, give the same results. -/
def Obligations.CommandsReadInputOnlyBelowInlen : Prop :=
  ∀ (i : Instr) (s t : State) (m : Memory) (e : Nat),
    (∀ o, o < s.inlen.toNat → inByte { s with input := m, inEpoch := e } o = inByte s o) →
    exec i s = .next t → exec i { s with input := m, inEpoch := e } = .next { t with input := m, inEpoch := e }

/-! Values: bit sequences, character sets, the width table (00_scope.md, 41_mode.md). -/

/-- R12: `bitsof(v, n)` is the n bits of v, most significant first. -/
def Obligations.BitsofIsMostSignificantFirst : Prop :=
  ∀ v n : Nat, n ≤ 31 → v < 2 ^ n →
    (bitsof v n).length = n ∧ (∀ k, k < n → (bitsof v n)[k]? = some (v.testBit (n - 1 - k))) ∧
      natOfBits (bitsof v n) = v

/-- R16: the digits and their values, and the 45 alphanumeric symbols and their indices. -/
def Obligations.CharacterSetsAreTheListedOnes : Prop :=
  (∀ b : Byte, isDigit b = true ↔ 0x30 ≤ b.toNat ∧ b.toNat ≤ 0x39) ∧
  (∀ b : Byte, isDigit b = true → digit b = b.toNat - 0x30) ∧
  alnumList.length = 45 ∧ (∀ b : Byte, isAlnum b = true ↔ b ∈ alnumList) ∧
  (∀ (k : Nat) (b : Byte), alnumList[k]? = some b → alnumIndex b = k)

/-- R131: the constraints on every legal table: NUMERIC is 10 wide at versions 1-9, ECI is 0 wide everywhere, and no field
is wider than 31. -/
def Obligations.CountFieldWidthsMeetTheConstraints : Prop :=
  ∀ (p : Config.Params) (m : Mode) (ver : Nat), paramsValid p = true →
    ccw p m ver ≤ 31 ∧ ccw p .eci ver = 0 ∧ (ver ≤ 9 → ccw p .numeric ver = 10)

/-! The commands, each with its words, its result in full, and its errors. -/

/-- R210: NOP. -/
def Obligations.NopOnlyReportsSuccess : Prop :=
  PlainWords 0x00 .nop ∧ ∀ s : State, exec .nop s = .next { s with status := ok s }

/-- R120, R144, R192: BB_CLEAR, LIST_CLEAR and OUT_CLEAR empty W, the list and OUT, and nothing else. -/
def Obligations.ClearCommandsEmptyTheirTarget : Prop :=
  PlainWords 0x01 .bbClear ∧ PlainWords 0x0A .listClear ∧ PlainWords 0x12 .outClear ∧
  ∀ s : State, exec .bbClear s = .next { s with w := [], status := ok s } ∧
    exec .listClear s = .next { s with segs := [], status := ok s } ∧
    exec .outClear s = .next { s with out := [], status := ok s }

/-- R122, R145, R193: BB_LEN, LIST_LEN and OUT_LEN return the lengths of W, of the list and of OUT; in states that meet the
invariant RES is the length itself, at most WBITS, NSEG or OBITS. -/
def Obligations.LengthCommandsReturnTheLength : Prop :=
  PlainWords 0x03 .bbLen ∧ PlainWords 0x0B .listLen ∧ PlainWords 0x13 .outLen ∧
  (∀ s : State, exec .bbLen s = .next { s with res := BitVec.ofNat 32 s.w.length, status := ok s } ∧
    exec .listLen s = .next { s with res := BitVec.ofNat 32 s.segs.length, status := ok s } ∧
    exec .outLen s = .next { s with res := BitVec.ofNat 32 s.out.length, status := ok s }) ∧
  ∀ s t : State, s.Inv →
    (exec .bbLen s = .next t → t.res.toNat = s.w.length ∧ t.res.toNat ≤ s.params.wBits) ∧
    (exec .listLen s = .next t → t.res.toNat = s.segs.length ∧ t.res.toNat ≤ s.params.nSeg) ∧
    (exec .outLen s = .next t → t.res.toNat = s.out.length ∧ t.res.toNat ≤ s.params.oBits)

/-- R121: BB_APPEND. -/
def Obligations.BbAppendAppendsTheValueOrFails : Prop :=
  WidthWords 0x02 .bbAppend ∧
  ∀ (s : State) (n : Nat),
    ((s.imm.toInt < 0 ∨ 2 ^ n ≤ s.imm.toInt) →
      exec (.bbAppend n) s = .next { s with status := failed .invalidArgument }) ∧
    (0 ≤ s.imm.toInt → s.imm.toInt < 2 ^ n → s.params.wBits < s.w.length + n →
      exec (.bbAppend n) s = .next { s with status := failed .bufferFull }) ∧
    (0 ≤ s.imm.toInt → s.imm.toInt < 2 ^ n → s.w.length + n ≤ s.params.wBits →
      exec (.bbAppend n) s = .next { s with w := s.w ++ bitsof s.imm.toNat n, status := ok s })

/-- R133: MODE_IND returns the indicator. -/
def Obligations.ModeIndReturnsTheIndicator : Prop :=
  ModeWords 0x04 .modeInd ∧
  ∀ (s : State) (m : Mode), exec (.modeInd m) s =
    .next { s with res := BitVec.ofNat 32 (modeIndicator m), status := ok s }

/-- R134, R132: CCW returns the field width of the version's range, or BadVersion. -/
def Obligations.CcwReturnsTheFieldWidth : Prop :=
  ModeVersionWords 0x05 .ccw ∧
  ∀ (s : State) (m : Mode) (v : Nat),
    ((v < 1 ∨ 40 < v) → exec (.ccw m v) s = .next { s with status := failed .badVersion }) ∧
    (1 ≤ v → v ≤ 9 → exec (.ccw m v) s =
      .next { s with res := BitVec.ofNat 32 (tableRow s.params.ccwTable m).index0, status := ok s }) ∧
    (10 ≤ v → v ≤ 26 → exec (.ccw m v) s =
      .next { s with res := BitVec.ofNat 32 (tableRow s.params.ccwTable m).index1, status := ok s }) ∧
    (27 ≤ v → v ≤ 40 → exec (.ccw m v) s =
      .next { s with res := BitVec.ofNat 32 (tableRow s.params.ccwTable m).index2, status := ok s })

/-- R140, R146: SEG_MAKE appends the segment of its mode, the count in IMM and a copy of W. -/
def Obligations.SegMakeAppendsTheSegment : Prop :=
  ModeWords 0x06 .segMake ∧
  ∀ (s : State) (m : Mode),
    (s.imm.toInt < 0 → exec (.segMake m) s = .next { s with status := failed .invalidArgument }) ∧
    (0 ≤ s.imm.toInt → s.segs.length = s.params.nSeg →
      exec (.segMake m) s = .next { s with status := failed .listFull }) ∧
    (0 ≤ s.imm.toInt → s.segs.length ≠ s.params.nSeg → exec (.segMake m) s = .next { s with
      segs := s.segs ++ [{ mode := m, count := s.imm.toNat, data := s.w }]
      res := BitVec.ofNat 32 (s.segs.length + 1)
      status := ok s })

/-- R141, R142, R143: SEG_MODE, SEG_COUNT and SEG_DATA read a slot of the list; past its end they raise BadSlot. -/
def Obligations.GettersReadTheirSlotOrFail : Prop :=
  SlotWords 0x07 .segMode ∧ SlotWords 0x08 .segCount ∧ SlotWords 0x09 .segData ∧
  ∀ (s : State) (sl : Nat),
    (s.segs.length ≤ sl →
      exec (.segMode sl) s = .next { s with status := failed .badSlot } ∧
      exec (.segCount sl) s = .next { s with status := failed .badSlot } ∧
      exec (.segData sl) s = .next { s with status := failed .badSlot }) ∧
    (∀ g : Segment, s.segs[sl]? = some g →
      exec (.segMode sl) s = .next { s with res := BitVec.ofNat 32 (modeIndicator g.mode), status := ok s } ∧
      exec (.segCount sl) s = .next { s with res := BitVec.ofNat 32 g.count, status := ok s } ∧
      exec (.segData sl) s = .next { s with w := g.data, res := BitVec.ofNat 32 g.data.length, status := ok s })

/-- R161: SEG_NUM packs a text of digits. -/
def Obligations.SegNumPacksDigits : Prop :=
  PlainWords 0x0C .segNum ∧
  ∀ s : State,
    (¬AllDigits s → exec .segNum s = .next { s with status := failed .invalidArgument }) ∧
    (AllDigits s → ∃ B, IsNumericPayload s B ∧ CommitsFactory .segNum s .numeric s.inlen.toNat B)

/-- R163: SEG_ALNUM packs a text over the 45 symbols. -/
def Obligations.SegAlnumPacksPairs : Prop :=
  PlainWords 0x0D .segAlnum ∧
  ∀ s : State,
    (¬AllAlnum s → exec .segAlnum s = .next { s with status := failed .invalidArgument }) ∧
    (AllAlnum s → ∃ B, IsAlnumPayload s B ∧ CommitsFactory .segAlnum s .alphanumeric s.inlen.toNat B)

/-- R164: SEG_BYTES stores every byte as it is. -/
def Obligations.SegBytesStoresEveryByte : Prop :=
  PlainWords 0x0E .segBytes ∧
  ∀ s : State, ∃ B, IsBytePayload s B ∧ CommitsFactory .segBytes s .byte s.inlen.toNat B

/-- R165: SEG_ECI makes the designator of the value in IMM, in 8, 16 or 24 bits. -/
def Obligations.SegEciMakesTheDesignator : Prop :=
  PlainWords 0x0F .segEci ∧
  ∀ s : State,
    ((s.imm.toInt < 0 ∨ 1000000 ≤ s.imm.toInt) →
      exec .segEci s = .next { s with status := failed .invalidArgument }) ∧
    (0 ≤ s.imm.toInt → s.imm.toInt < 128 → CommitsFactory .segEci s .eci 0 (bitsof s.imm.toNat 8)) ∧
    (128 ≤ s.imm.toInt → s.imm.toInt < 16384 →
      CommitsFactory .segEci s .eci 0 ([true, false] ++ bitsof s.imm.toNat 14)) ∧
    (16384 ≤ s.imm.toInt → s.imm.toInt < 1000000 →
      CommitsFactory .segEci s .eci 0 ([true, true, false] ++ bitsof s.imm.toNat 21))

/-- R166: SEG_AUTO chooses one mode for the whole input: none when it is empty, then NUMERIC, ALPHANUMERIC, BYTE. -/
def Obligations.SegAutoChoosesOneMode : Prop :=
  PlainWords 0x10 .segAuto ∧
  ∀ s : State,
    (s.inlen.toNat = 0 → exec .segAuto s =
      .next { s with w := [], res := BitVec.ofNat 32 s.segs.length, status := ok s }) ∧
    (s.inlen.toNat ≠ 0 → AllDigits s →
      exec .segAuto s = exec .segNum s ∧
      ∃ B, IsNumericPayload s B ∧ CommitsFactory .segAuto s .numeric s.inlen.toNat B) ∧
    (s.inlen.toNat ≠ 0 → ¬AllDigits s → AllAlnum s →
      exec .segAuto s = exec .segAlnum s ∧
      ∃ B, IsAlnumPayload s B ∧ CommitsFactory .segAuto s .alphanumeric s.inlen.toNat B) ∧
    (s.inlen.toNat ≠ 0 → ¬AllDigits s → ¬AllAlnum s →
      exec .segAuto s = exec .segBytes s ∧
      ∃ B, IsBytePayload s B ∧ CommitsFactory .segAuto s .byte s.inlen.toNat B)

/-- R190, R191: TOTAL_BITS returns the sum of 4 + ccbits + data bits, or the capacity outcome where a count does not fit
its field or the total exceeds 2^31 - 1. -/
def Obligations.TotalBitsReturnsTheSumOrOverCapacity : Prop :=
  VersionWords 0x11 .totalBits ∧
  ∀ (s : State) (v : Nat),
    ((v < 1 ∨ 40 < v) → exec (.totalBits v) s = .next { s with status := failed .badVersion }) ∧
    (1 ≤ v → v ≤ 40 → ¬Fits s.params v s.segs →
      exec (.totalBits v) s = .next { s with res := 0xFFFFFFFF, status := overCapacity s }) ∧
    (1 ≤ v → v ≤ 40 → Fits s.params v s.segs →
      exec (.totalBits v) s = .next { s with res := BitVec.ofNat 32 (totalLength s.params v s.segs), status := ok s })

/-- R194, R195: SERIALIZE appends the wire format of the list to OUT, or nothing. -/
def Obligations.SerializeAppendsTheWireFormatOrNothing : Prop :=
  VersionWords 0x14 .serialize ∧
  ∀ (s : State) (v : Nat),
    ((v < 1 ∨ 40 < v) → exec (.serialize v) s = .next { s with status := failed .badVersion }) ∧
    (1 ≤ v → v ≤ 40 → ¬Fits s.params v s.segs →
      exec (.serialize v) s = .next { s with res := 0xFFFFFFFF, status := overCapacity s }) ∧
    (1 ≤ v → v ≤ 40 → Fits s.params v s.segs → s.params.oBits < s.out.length + totalLength s.params v s.segs →
      exec (.serialize v) s = .next { s with status := failed .bufferFull }) ∧
    (1 ≤ v → v ≤ 40 → Fits s.params v s.segs → s.out.length + totalLength s.params v s.segs ≤ s.params.oBits →
      exec (.serialize v) s = .next { s with
        out := s.out ++ wireFormat s.params v s.segs
        res := BitVec.ofNat 32 (totalLength s.params v s.segs)
        status := ok s })

/-- R196: a successful SERIALIZE appends as many bits as TOTAL_BITS returns at the same version, and returns that number. -/
def Obligations.SerializeAppendsAsManyBitsAsTotalBitsReturns : Prop :=
  ∀ (s t u : State) (v : Nat), exec (.serialize v) s = .next t → t.status = ok s → exec (.totalBits v) s = .next u →
    u.status = ok s ∧ t.res = u.res ∧ t.out.length = s.out.length + u.res.toNat

/-- R168: reading an ECI designator back gives the value. -/
def Obligations.EciDesignatorReadsBackItsValue : Prop :=
  ∀ s : State, 0 ≤ s.imm.toInt → s.imm.toInt < 1000000 → s.segs.length ≠ s.params.nSeg → 24 ≤ s.params.wBits →
    ∃ t g, exec .segEci s = .next t ∧ t.segs = s.segs ++ [g] ∧ (eciValue g.data : Int) = s.imm.toInt

/-- R161, R163, R164: no factory loses information: two inputs of one length with the same payload are the same input. -/
def Obligations.PayloadDeterminesTheInput : Prop :=
  ∀ x y : List Byte, x.length = y.length →
    (x.all isDigit = true → y.all isDigit = true → numericPayload x = numericPayload y → x = y) ∧
    (x.all isAlnum = true → y.all isAlnum = true → alnumPayload x = alnumPayload y → x = y) ∧
    (bytePayload x = bytePayload y → x = y)

/-! Frames: what each command leaves unchanged. -/

/-- The commands that only return a value: everything but RES and STATUS is unchanged. -/
def Obligations.FrameOfTheReadingCommands : Prop :=
  ∀ (i : Instr) (s t : State),
    (i ∈ [.nop, .bbLen, .listLen, .outLen] ∨ (∃ m, i = .modeInd m) ∨ (∃ m v, i = .ccw m v) ∨ (∃ sl, i = .segMode sl) ∨
      (∃ sl, i = .segCount sl) ∨ (∃ v, i = .totalBits v)) →
    exec i s = .next t → HostStateKept s t ∧ t.w = s.w ∧ t.out = s.out ∧ t.segs = s.segs ∧ (i = .nop → t.res = s.res)

/-- The commands that write W alone: BB_CLEAR and BB_APPEND leave RES too, SEG_DATA writes it. -/
def Obligations.FrameOfTheWorkingBufferCommands : Prop :=
  ∀ (i : Instr) (s t : State), (i = .bbClear ∨ (∃ n, i = .bbAppend n) ∨ (∃ sl, i = .segData sl)) →
    exec i s = .next t →
    HostStateKept s t ∧ t.out = s.out ∧ t.segs = s.segs ∧ ((∀ sl, i ≠ .segData sl) → t.res = s.res)

/-- The commands on the segment list: SEG_MAKE leaves W, LIST_CLEAR leaves W and RES, the factories write W, the list
and RES. -/
def Obligations.FrameOfTheSegmentListCommands : Prop :=
  ∀ (i : Instr) (s t : State),
    (i ∈ [.listClear, .segNum, .segAlnum, .segBytes, .segEci, .segAuto] ∨ (∃ m, i = .segMake m)) →
    exec i s = .next t →
    HostStateKept s t ∧ t.out = s.out ∧ ((∃ m, i = .segMake m) → t.w = s.w) ∧
      (i = .listClear → t.w = s.w ∧ t.res = s.res)

/-- The commands on OUT: W and the list are unchanged; OUT_CLEAR leaves RES too. -/
def Obligations.FrameOfTheOutputBufferCommands : Prop :=
  ∀ (i : Instr) (s t : State), (i = .outClear ∨ (∃ v, i = .serialize v)) → exec i s = .next t →
    HostStateKept s t ∧ t.w = s.w ∧ t.segs = s.segs ∧ (i = .outClear → t.res = s.res)

/-! The assembler (30_encoding.md section 4). -/

/-- R100, R101: the assembler's lines stand for the spec's words and host accesses, and it refuses what the spec says. -/
def Obligations.AssemblerLinesGiveTheirAccesses : Prop :=
  assembleLine "CCW m=BYTE, v=10" = some [.write 0x0005 0x00052005] ∧
  assembleLine "APPEND 5, 4" = some [.write 0x0003 5, .write 0x0005 0x00000102] ∧
  assembleLine "MAKE NUMERIC, 1" = some [.write 0x0003 1, .write 0x0005 0x00000806] ∧
  assembleLine "ECI 26" = some [.write 0x0003 26, .write 0x0005 0x0000000F] ∧
  assembleLine "TEXT \"123\"" = some [.write 0x0400 0x00333231, .write 0x0004 3] ∧
  assembleLine "CLRERR" = some [.write 0x0001 0x00000100] ∧
  assembleLine "RDRES BB_LEN" = some [.write 0x0005 0x00000003, .read 0x0002] ∧
  assembleLine "NOP w=1" = none ∧ assembleLine "BB_APPEND w=32" = none ∧ assembleLine "FOO" = none
end

