-- ==== Sys2Proof/Laws/Bits.lean ====
section
/-! SUPPORT. Lengths of bit sequences, and the shape of a payload. -/
namespace Sys2Proof.Machine

@[simp] theorem bitsof_length (v n : Nat) : (bitsof v n).length = n := by
  induction n with
  | zero => rfl
  | succ n ih => simp [bitsof, ih]

@[simp] theorem append_length (b : Bits) (v n : Nat) : (append b v n).length = b.length + n := by
  simp [append]

@[simp] theorem groupBits_length (g : List Byte) : (groupBits g).length = 3 * g.length + 1 := by
  simp [groupBits]

@[simp] theorem wire_length (p : Config.Params) (ver : Nat) (seg : Segment) :
    (wire p ver seg).length = 4 + ccw p seg.mode ver + seg.data.length := by
  simp [wire, Nat.add_assoc]

@[simp] theorem wireAll_nil (p : Config.Params) (ver : Nat) : wireAll p ver [] = [] := rfl

@[simp] theorem wireAll_cons (p : Config.Params) (ver : Nat) (seg : Segment) (rest : List Segment) :
    wireAll p ver (seg :: rest) = wire p ver seg ++ wireAll p ver rest := rfl

@[simp] theorem textOperand_length (s : State) : (textOperand s).length = s.inlen.toNat := by
  simp [textOperand, memRead]

end Sys2Proof.Machine
end

