-- ==== Sys2Proof/Laws/State.lean ====
section
/-! SUPPORT. What each register write leaves in each field of the state, and writes of one field twice. -/
namespace Sys2Proof.Machine

@[simp] theorem State.setStatus_params (s : State) (v : Status) : (s.setStatus v).params = s.params := rfl
@[simp] theorem State.setStatus_status (s : State) (v : Status) : (s.setStatus v).status = v := rfl
@[simp] theorem State.setStatus_res (s : State) (v : Status) : (s.setStatus v).res = s.res := rfl
@[simp] theorem State.setStatus_imm (s : State) (v : Status) : (s.setStatus v).imm = s.imm := rfl
@[simp] theorem State.setStatus_inlen (s : State) (v : Status) : (s.setStatus v).inlen = s.inlen := rfl
@[simp] theorem State.setStatus_cmdlast (s : State) (v : Status) : (s.setStatus v).cmdlast = s.cmdlast := rfl
@[simp] theorem State.setStatus_w (s : State) (v : Status) : (s.setStatus v).w = s.w := rfl
@[simp] theorem State.setStatus_out (s : State) (v : Status) : (s.setStatus v).out = s.out := rfl
@[simp] theorem State.setStatus_segs (s : State) (v : Status) : (s.setStatus v).segs = s.segs := rfl
@[simp] theorem State.setStatus_input (s : State) (v : Status) : (s.setStatus v).input = s.input := rfl
@[simp] theorem State.setStatus_inEpoch (s : State) (v : Status) : (s.setStatus v).inEpoch = s.inEpoch := rfl
@[simp] theorem State.setStatus_pending (s : State) (v : Status) : (s.setStatus v).pending = s.pending := rfl
@[simp] theorem State.setStatus_rdata (s : State) (v : Status) : (s.setStatus v).rdata = s.rdata := rfl
@[simp] theorem State.setStatus_segcnt (s : State) (v : Status) : (s.setStatus v).segcnt = s.segcnt := rfl
@[simp] theorem State.setStatus_twice (s : State) (v v' : Status) : (s.setStatus v).setStatus v' = s.setStatus v' := rfl
@[simp] theorem State.setStatus_same (s : State) : s.setStatus s.status = s := rfl

@[simp] theorem State.setRes_params (s : State) (v : Word) : (s.setRes v).params = s.params := rfl
@[simp] theorem State.setRes_status (s : State) (v : Word) : (s.setRes v).status = s.status := rfl
@[simp] theorem State.setRes_res (s : State) (v : Word) : (s.setRes v).res = v := rfl
@[simp] theorem State.setRes_imm (s : State) (v : Word) : (s.setRes v).imm = s.imm := rfl
@[simp] theorem State.setRes_inlen (s : State) (v : Word) : (s.setRes v).inlen = s.inlen := rfl
@[simp] theorem State.setRes_cmdlast (s : State) (v : Word) : (s.setRes v).cmdlast = s.cmdlast := rfl
@[simp] theorem State.setRes_w (s : State) (v : Word) : (s.setRes v).w = s.w := rfl
@[simp] theorem State.setRes_out (s : State) (v : Word) : (s.setRes v).out = s.out := rfl
@[simp] theorem State.setRes_segs (s : State) (v : Word) : (s.setRes v).segs = s.segs := rfl
@[simp] theorem State.setRes_input (s : State) (v : Word) : (s.setRes v).input = s.input := rfl
@[simp] theorem State.setRes_inEpoch (s : State) (v : Word) : (s.setRes v).inEpoch = s.inEpoch := rfl
@[simp] theorem State.setRes_pending (s : State) (v : Word) : (s.setRes v).pending = s.pending := rfl
@[simp] theorem State.setRes_rdata (s : State) (v : Word) : (s.setRes v).rdata = s.rdata := rfl
@[simp] theorem State.setRes_segcnt (s : State) (v : Word) : (s.setRes v).segcnt = s.segcnt := rfl
@[simp] theorem State.setRes_twice (s : State) (v v' : Word) : (s.setRes v).setRes v' = s.setRes v' := rfl
@[simp] theorem State.setRes_same (s : State) : s.setRes s.res = s := rfl

@[simp] theorem State.setImm_params (s : State) (v : Word) : (s.setImm v).params = s.params := rfl
@[simp] theorem State.setImm_status (s : State) (v : Word) : (s.setImm v).status = s.status := rfl
@[simp] theorem State.setImm_res (s : State) (v : Word) : (s.setImm v).res = s.res := rfl
@[simp] theorem State.setImm_imm (s : State) (v : Word) : (s.setImm v).imm = v := rfl
@[simp] theorem State.setImm_inlen (s : State) (v : Word) : (s.setImm v).inlen = s.inlen := rfl
@[simp] theorem State.setImm_cmdlast (s : State) (v : Word) : (s.setImm v).cmdlast = s.cmdlast := rfl
@[simp] theorem State.setImm_w (s : State) (v : Word) : (s.setImm v).w = s.w := rfl
@[simp] theorem State.setImm_out (s : State) (v : Word) : (s.setImm v).out = s.out := rfl
@[simp] theorem State.setImm_segs (s : State) (v : Word) : (s.setImm v).segs = s.segs := rfl
@[simp] theorem State.setImm_input (s : State) (v : Word) : (s.setImm v).input = s.input := rfl
@[simp] theorem State.setImm_inEpoch (s : State) (v : Word) : (s.setImm v).inEpoch = s.inEpoch := rfl
@[simp] theorem State.setImm_pending (s : State) (v : Word) : (s.setImm v).pending = s.pending := rfl
@[simp] theorem State.setImm_rdata (s : State) (v : Word) : (s.setImm v).rdata = s.rdata := rfl
@[simp] theorem State.setImm_segcnt (s : State) (v : Word) : (s.setImm v).segcnt = s.segcnt := rfl
@[simp] theorem State.setImm_twice (s : State) (v v' : Word) : (s.setImm v).setImm v' = s.setImm v' := rfl
@[simp] theorem State.setImm_same (s : State) : s.setImm s.imm = s := rfl

@[simp] theorem State.setInlen_params (s : State) (v : Word) : (s.setInlen v).params = s.params := rfl
@[simp] theorem State.setInlen_status (s : State) (v : Word) : (s.setInlen v).status = s.status := rfl
@[simp] theorem State.setInlen_res (s : State) (v : Word) : (s.setInlen v).res = s.res := rfl
@[simp] theorem State.setInlen_imm (s : State) (v : Word) : (s.setInlen v).imm = s.imm := rfl
@[simp] theorem State.setInlen_inlen (s : State) (v : Word) : (s.setInlen v).inlen = v := rfl
@[simp] theorem State.setInlen_cmdlast (s : State) (v : Word) : (s.setInlen v).cmdlast = s.cmdlast := rfl
@[simp] theorem State.setInlen_w (s : State) (v : Word) : (s.setInlen v).w = s.w := rfl
@[simp] theorem State.setInlen_out (s : State) (v : Word) : (s.setInlen v).out = s.out := rfl
@[simp] theorem State.setInlen_segs (s : State) (v : Word) : (s.setInlen v).segs = s.segs := rfl
@[simp] theorem State.setInlen_input (s : State) (v : Word) : (s.setInlen v).input = s.input := rfl
@[simp] theorem State.setInlen_inEpoch (s : State) (v : Word) : (s.setInlen v).inEpoch = s.inEpoch := rfl
@[simp] theorem State.setInlen_pending (s : State) (v : Word) : (s.setInlen v).pending = s.pending := rfl
@[simp] theorem State.setInlen_rdata (s : State) (v : Word) : (s.setInlen v).rdata = s.rdata := rfl
@[simp] theorem State.setInlen_segcnt (s : State) (v : Word) : (s.setInlen v).segcnt = s.segcnt := rfl
@[simp] theorem State.setInlen_twice (s : State) (v v' : Word) : (s.setInlen v).setInlen v' = s.setInlen v' := rfl
@[simp] theorem State.setInlen_same (s : State) : s.setInlen s.inlen = s := rfl

@[simp] theorem State.setCmdlast_params (s : State) (v : Word) : (s.setCmdlast v).params = s.params := rfl
@[simp] theorem State.setCmdlast_status (s : State) (v : Word) : (s.setCmdlast v).status = s.status := rfl
@[simp] theorem State.setCmdlast_res (s : State) (v : Word) : (s.setCmdlast v).res = s.res := rfl
@[simp] theorem State.setCmdlast_imm (s : State) (v : Word) : (s.setCmdlast v).imm = s.imm := rfl
@[simp] theorem State.setCmdlast_inlen (s : State) (v : Word) : (s.setCmdlast v).inlen = s.inlen := rfl
@[simp] theorem State.setCmdlast_cmdlast (s : State) (v : Word) : (s.setCmdlast v).cmdlast = v := rfl
@[simp] theorem State.setCmdlast_w (s : State) (v : Word) : (s.setCmdlast v).w = s.w := rfl
@[simp] theorem State.setCmdlast_out (s : State) (v : Word) : (s.setCmdlast v).out = s.out := rfl
@[simp] theorem State.setCmdlast_segs (s : State) (v : Word) : (s.setCmdlast v).segs = s.segs := rfl
@[simp] theorem State.setCmdlast_input (s : State) (v : Word) : (s.setCmdlast v).input = s.input := rfl
@[simp] theorem State.setCmdlast_inEpoch (s : State) (v : Word) : (s.setCmdlast v).inEpoch = s.inEpoch := rfl
@[simp] theorem State.setCmdlast_pending (s : State) (v : Word) : (s.setCmdlast v).pending = s.pending := rfl
@[simp] theorem State.setCmdlast_rdata (s : State) (v : Word) : (s.setCmdlast v).rdata = s.rdata := rfl
@[simp] theorem State.setCmdlast_segcnt (s : State) (v : Word) : (s.setCmdlast v).segcnt = s.segcnt := rfl
@[simp] theorem State.setCmdlast_twice (s : State) (v v' : Word) : (s.setCmdlast v).setCmdlast v' = s.setCmdlast v' := rfl
@[simp] theorem State.setCmdlast_same (s : State) : s.setCmdlast s.cmdlast = s := rfl

@[simp] theorem State.setW_params (s : State) (v : Bits) : (s.setW v).params = s.params := rfl
@[simp] theorem State.setW_status (s : State) (v : Bits) : (s.setW v).status = s.status := rfl
@[simp] theorem State.setW_res (s : State) (v : Bits) : (s.setW v).res = s.res := rfl
@[simp] theorem State.setW_imm (s : State) (v : Bits) : (s.setW v).imm = s.imm := rfl
@[simp] theorem State.setW_inlen (s : State) (v : Bits) : (s.setW v).inlen = s.inlen := rfl
@[simp] theorem State.setW_cmdlast (s : State) (v : Bits) : (s.setW v).cmdlast = s.cmdlast := rfl
@[simp] theorem State.setW_w (s : State) (v : Bits) : (s.setW v).w = v := rfl
@[simp] theorem State.setW_out (s : State) (v : Bits) : (s.setW v).out = s.out := rfl
@[simp] theorem State.setW_segs (s : State) (v : Bits) : (s.setW v).segs = s.segs := rfl
@[simp] theorem State.setW_input (s : State) (v : Bits) : (s.setW v).input = s.input := rfl
@[simp] theorem State.setW_inEpoch (s : State) (v : Bits) : (s.setW v).inEpoch = s.inEpoch := rfl
@[simp] theorem State.setW_pending (s : State) (v : Bits) : (s.setW v).pending = s.pending := rfl
@[simp] theorem State.setW_rdata (s : State) (v : Bits) : (s.setW v).rdata = s.rdata := rfl
@[simp] theorem State.setW_segcnt (s : State) (v : Bits) : (s.setW v).segcnt = s.segcnt := rfl
@[simp] theorem State.setW_twice (s : State) (v v' : Bits) : (s.setW v).setW v' = s.setW v' := rfl
@[simp] theorem State.setW_same (s : State) : s.setW s.w = s := rfl

@[simp] theorem State.setOut_params (s : State) (v : Bits) : (s.setOut v).params = s.params := rfl
@[simp] theorem State.setOut_status (s : State) (v : Bits) : (s.setOut v).status = s.status := rfl
@[simp] theorem State.setOut_res (s : State) (v : Bits) : (s.setOut v).res = s.res := rfl
@[simp] theorem State.setOut_imm (s : State) (v : Bits) : (s.setOut v).imm = s.imm := rfl
@[simp] theorem State.setOut_inlen (s : State) (v : Bits) : (s.setOut v).inlen = s.inlen := rfl
@[simp] theorem State.setOut_cmdlast (s : State) (v : Bits) : (s.setOut v).cmdlast = s.cmdlast := rfl
@[simp] theorem State.setOut_w (s : State) (v : Bits) : (s.setOut v).w = s.w := rfl
@[simp] theorem State.setOut_out (s : State) (v : Bits) : (s.setOut v).out = v := rfl
@[simp] theorem State.setOut_segs (s : State) (v : Bits) : (s.setOut v).segs = s.segs := rfl
@[simp] theorem State.setOut_input (s : State) (v : Bits) : (s.setOut v).input = s.input := rfl
@[simp] theorem State.setOut_inEpoch (s : State) (v : Bits) : (s.setOut v).inEpoch = s.inEpoch := rfl
@[simp] theorem State.setOut_pending (s : State) (v : Bits) : (s.setOut v).pending = s.pending := rfl
@[simp] theorem State.setOut_rdata (s : State) (v : Bits) : (s.setOut v).rdata = s.rdata := rfl
@[simp] theorem State.setOut_segcnt (s : State) (v : Bits) : (s.setOut v).segcnt = s.segcnt := rfl
@[simp] theorem State.setOut_twice (s : State) (v v' : Bits) : (s.setOut v).setOut v' = s.setOut v' := rfl
@[simp] theorem State.setOut_same (s : State) : s.setOut s.out = s := rfl

@[simp] theorem State.setSegs_params (s : State) (v : List Segment) : (s.setSegs v).params = s.params := rfl
@[simp] theorem State.setSegs_status (s : State) (v : List Segment) : (s.setSegs v).status = s.status := rfl
@[simp] theorem State.setSegs_res (s : State) (v : List Segment) : (s.setSegs v).res = s.res := rfl
@[simp] theorem State.setSegs_imm (s : State) (v : List Segment) : (s.setSegs v).imm = s.imm := rfl
@[simp] theorem State.setSegs_inlen (s : State) (v : List Segment) : (s.setSegs v).inlen = s.inlen := rfl
@[simp] theorem State.setSegs_cmdlast (s : State) (v : List Segment) : (s.setSegs v).cmdlast = s.cmdlast := rfl
@[simp] theorem State.setSegs_w (s : State) (v : List Segment) : (s.setSegs v).w = s.w := rfl
@[simp] theorem State.setSegs_out (s : State) (v : List Segment) : (s.setSegs v).out = s.out := rfl
@[simp] theorem State.setSegs_segs (s : State) (v : List Segment) : (s.setSegs v).segs = v := rfl
@[simp] theorem State.setSegs_input (s : State) (v : List Segment) : (s.setSegs v).input = s.input := rfl
@[simp] theorem State.setSegs_inEpoch (s : State) (v : List Segment) : (s.setSegs v).inEpoch = s.inEpoch := rfl
@[simp] theorem State.setSegs_pending (s : State) (v : List Segment) : (s.setSegs v).pending = s.pending := rfl
@[simp] theorem State.setSegs_rdata (s : State) (v : List Segment) : (s.setSegs v).rdata = s.rdata := rfl
@[simp] theorem State.setSegs_segcnt (s : State) (v : List Segment) : (s.setSegs v).segcnt = v.length := rfl
@[simp] theorem State.setSegs_twice (s : State) (v v' : List Segment) : (s.setSegs v).setSegs v' = s.setSegs v' := rfl
@[simp] theorem State.setSegs_same (s : State) : s.setSegs s.segs = s := rfl

@[simp] theorem State.setInput_params (s : State) (v : Memory) : (s.setInput v).params = s.params := rfl
@[simp] theorem State.setInput_status (s : State) (v : Memory) : (s.setInput v).status = s.status := rfl
@[simp] theorem State.setInput_res (s : State) (v : Memory) : (s.setInput v).res = s.res := rfl
@[simp] theorem State.setInput_imm (s : State) (v : Memory) : (s.setInput v).imm = s.imm := rfl
@[simp] theorem State.setInput_inlen (s : State) (v : Memory) : (s.setInput v).inlen = s.inlen := rfl
@[simp] theorem State.setInput_cmdlast (s : State) (v : Memory) : (s.setInput v).cmdlast = s.cmdlast := rfl
@[simp] theorem State.setInput_w (s : State) (v : Memory) : (s.setInput v).w = s.w := rfl
@[simp] theorem State.setInput_out (s : State) (v : Memory) : (s.setInput v).out = s.out := rfl
@[simp] theorem State.setInput_segs (s : State) (v : Memory) : (s.setInput v).segs = s.segs := rfl
@[simp] theorem State.setInput_input (s : State) (v : Memory) : (s.setInput v).input = v := rfl
@[simp] theorem State.setInput_inEpoch (s : State) (v : Memory) : (s.setInput v).inEpoch = s.inEpoch := rfl
@[simp] theorem State.setInput_pending (s : State) (v : Memory) : (s.setInput v).pending = s.pending := rfl
@[simp] theorem State.setInput_rdata (s : State) (v : Memory) : (s.setInput v).rdata = s.rdata := rfl
@[simp] theorem State.setInput_segcnt (s : State) (v : Memory) : (s.setInput v).segcnt = s.segcnt := rfl
@[simp] theorem State.setInput_twice (s : State) (v v' : Memory) : (s.setInput v).setInput v' = s.setInput v' := rfl
@[simp] theorem State.setInput_same (s : State) : s.setInput s.input = s := rfl

@[simp] theorem State.setPending_params (s : State) (v : List HostEvent) : (s.setPending v).params = s.params := rfl
@[simp] theorem State.setPending_status (s : State) (v : List HostEvent) : (s.setPending v).status = s.status := rfl
@[simp] theorem State.setPending_res (s : State) (v : List HostEvent) : (s.setPending v).res = s.res := rfl
@[simp] theorem State.setPending_imm (s : State) (v : List HostEvent) : (s.setPending v).imm = s.imm := rfl
@[simp] theorem State.setPending_inlen (s : State) (v : List HostEvent) : (s.setPending v).inlen = s.inlen := rfl
@[simp] theorem State.setPending_cmdlast (s : State) (v : List HostEvent) : (s.setPending v).cmdlast = s.cmdlast := rfl
@[simp] theorem State.setPending_w (s : State) (v : List HostEvent) : (s.setPending v).w = s.w := rfl
@[simp] theorem State.setPending_out (s : State) (v : List HostEvent) : (s.setPending v).out = s.out := rfl
@[simp] theorem State.setPending_segs (s : State) (v : List HostEvent) : (s.setPending v).segs = s.segs := rfl
@[simp] theorem State.setPending_input (s : State) (v : List HostEvent) : (s.setPending v).input = s.input := rfl
@[simp] theorem State.setPending_inEpoch (s : State) (v : List HostEvent) : (s.setPending v).inEpoch = s.inEpoch := rfl
@[simp] theorem State.setPending_pending (s : State) (v : List HostEvent) : (s.setPending v).pending = v := rfl
@[simp] theorem State.setPending_rdata (s : State) (v : List HostEvent) : (s.setPending v).rdata = s.rdata := rfl
@[simp] theorem State.setPending_segcnt (s : State) (v : List HostEvent) : (s.setPending v).segcnt = s.segcnt := rfl
@[simp] theorem State.setPending_twice (s : State) (v v' : List HostEvent) : (s.setPending v).setPending v' = s.setPending v' := rfl
@[simp] theorem State.setPending_same (s : State) : s.setPending s.pending = s := rfl

@[simp] theorem State.setRdata_params (s : State) (v : Word) : (s.setRdata v).params = s.params := rfl
@[simp] theorem State.setRdata_status (s : State) (v : Word) : (s.setRdata v).status = s.status := rfl
@[simp] theorem State.setRdata_res (s : State) (v : Word) : (s.setRdata v).res = s.res := rfl
@[simp] theorem State.setRdata_imm (s : State) (v : Word) : (s.setRdata v).imm = s.imm := rfl
@[simp] theorem State.setRdata_inlen (s : State) (v : Word) : (s.setRdata v).inlen = s.inlen := rfl
@[simp] theorem State.setRdata_cmdlast (s : State) (v : Word) : (s.setRdata v).cmdlast = s.cmdlast := rfl
@[simp] theorem State.setRdata_w (s : State) (v : Word) : (s.setRdata v).w = s.w := rfl
@[simp] theorem State.setRdata_out (s : State) (v : Word) : (s.setRdata v).out = s.out := rfl
@[simp] theorem State.setRdata_segs (s : State) (v : Word) : (s.setRdata v).segs = s.segs := rfl
@[simp] theorem State.setRdata_input (s : State) (v : Word) : (s.setRdata v).input = s.input := rfl
@[simp] theorem State.setRdata_inEpoch (s : State) (v : Word) : (s.setRdata v).inEpoch = s.inEpoch := rfl
@[simp] theorem State.setRdata_pending (s : State) (v : Word) : (s.setRdata v).pending = s.pending := rfl
@[simp] theorem State.setRdata_rdata (s : State) (v : Word) : (s.setRdata v).rdata = v := rfl
@[simp] theorem State.setRdata_segcnt (s : State) (v : Word) : (s.setRdata v).segcnt = s.segcnt := rfl
@[simp] theorem State.setRdata_twice (s : State) (v v' : Word) : (s.setRdata v).setRdata v' = s.setRdata v' := rfl
@[simp] theorem State.setRdata_same (s : State) : s.setRdata s.rdata = s := rfl

/-- The reset input: every field of the state after it (R49, R250). -/
@[simp] theorem afterReset_params (s : State) : (afterReset s).params = s.params := rfl
@[simp] theorem afterReset_status (s : State) : (afterReset s).status = Status.reset := rfl
@[simp] theorem afterReset_res (s : State) : (afterReset s).res = 0 := rfl
@[simp] theorem afterReset_imm (s : State) : (afterReset s).imm = 0 := rfl
@[simp] theorem afterReset_inlen (s : State) : (afterReset s).inlen = 0 := rfl
@[simp] theorem afterReset_cmdlast (s : State) : (afterReset s).cmdlast = 0 := rfl
@[simp] theorem afterReset_w (s : State) : (afterReset s).w = [] := rfl
@[simp] theorem afterReset_out (s : State) : (afterReset s).out = [] := rfl
@[simp] theorem afterReset_segs (s : State) : (afterReset s).segs = [] := rfl
@[simp] theorem afterReset_input (s : State) : (afterReset s).input = [] := rfl
@[simp] theorem afterReset_inEpoch (s : State) : (afterReset s).inEpoch = s.inEpoch + 1 := rfl
@[simp] theorem afterReset_pending (s : State) : (afterReset s).pending = s.pending := rfl
@[simp] theorem afterReset_rdata (s : State) : (afterReset s).rdata = s.rdata := rfl

end Sys2Proof.Machine
end

