-- ==== Sys2Proof/Laws/Ops.lean ====
section
/-! SUPPORT. What each shared way of ending a command can do. -/
namespace Sys2Proof.Machine

@[simp] theorem addseg_segs (m : Mode) (n : Nat) (b : Bits) (s : State) :
    (addseg m n b s).segs = s.segs ++ [{ mode := m, count := n, data := b }] := rfl

@[simp] theorem addseg_segcnt (m : Mode) (n : Nat) (b : Bits) (s : State) :
    (addseg m n b s).segcnt = s.segcnt + 1 := by simp [State.segcnt]

/-- Adding a segment changes nothing but the list (R146). -/
theorem addseg_frame (m : Mode) (n : Nat) (b : Bits) (s : State) :
    addseg m n b s = s.setSegs (s.segs ++ [{ mode := m, count := n, data := b }]) := rfl

/-- The version check (R132). -/
theorem legalVersion_iff (ver : Nat) : legalVersion ver = true ↔ 1 ≤ ver ∧ ver ≤ 40 := by
  simp [legalVersion, minVer, maxVer]

/-- A mode's row is the table's field of its name (R131). -/
@[simp] theorem ccwRow_numeric (t : Config.CcwTable) : ccwRow t .numeric = t.numeric := rfl
@[simp] theorem ccwRow_alphanumeric (t : Config.CcwTable) : ccwRow t .alphanumeric = t.alphanumeric := rfl
@[simp] theorem ccwRow_byte (t : Config.CcwTable) : ccwRow t .byte = t.byte := rfl
@[simp] theorem ccwRow_kanji (t : Config.CcwTable) : ccwRow t .kanji = t.kanji := rfl
@[simp] theorem ccwRow_eci (t : Config.CcwTable) : ccwRow t .eci = t.eci := rfl

/-- Success: the state itself with STATUS saying so (R223). -/
theorem done_next {s t : State} (h : done s = .next t) : t = s.setStatus (statusDone s.status) :=
  (Host.Outcome.next.inj h).symm

/-- An error: the state before the command with STATUS saying which (R222). -/
theorem raise_next {e : LErr} {s t : State} (h : raise e s = .next t) : t = s.setStatus (statusRaised e) :=
  (Host.Outcome.next.inj h).symm

/-- The capacity outcome: RES and STATUS, and nothing else (R224). -/
theorem capacityExceeded_next {s t : State} (h : capacityExceeded s = .next t) :
    t = (s.setRes 0xFFFFFFFF).setStatus (statusCapacity s.status) :=
  (Host.Outcome.next.inj h).symm

/-- A command on a slot: BadSlot past the end of the list, else what it does with the slot's segment (R141). -/
theorem withSlot_cases (sl : Nat) (s : State) (f : Segment → State) :
    (s.segcnt ≤ sl ∧ withSlot sl s f = raise .badSlot s) ∨
      ∃ seg, s.segs[sl]? = some seg ∧ withSlot sl s f = done (f seg) := by
  unfold withSlot
  split
  · next h => exact .inl ⟨List.getElem?_eq_none_iff.1 h, rfl⟩
  · next seg h => exact .inr ⟨seg, h, rfl⟩

/-- `FactoryCommit`: a full list, a payload over WBITS, or the new segment with W and RES (R160). -/
theorem factoryCommit_cases (m : Mode) (n : Nat) (b : Bits) (s : State) :
    (s.segcnt = s.params.nSeg ∧ factoryCommit m n b s = raise .listFull s) ∨
      (s.params.wBits < b.length ∧ factoryCommit m n b s = raise .bufferFull s) ∨
      (s.segcnt ≠ s.params.nSeg ∧ b.length ≤ s.params.wBits ∧
        factoryCommit m n b s = done ((addseg m n b (s.setW b)).setRes (word32 (s.segcnt + 1)))) := by
  unfold factoryCommit
  split
  · exact .inl ⟨‹_›, rfl⟩
  · split
    · exact .inr (.inl ⟨‹_›, rfl⟩)
    · exact .inr (.inr ⟨‹_›, by omega, by simp⟩)

end Sys2Proof.Machine
end

