-- ==== Sys2Proof/Laws/Exec.lean ====
section
/-! SUPPORT. Everything a command can do: raise an error, end with the capacity outcome, or write some of W, OUT, the
segment list and RES and report success. -/
namespace Sys2Proof.Machine

/-- The outcome `o` from state `s` is an error, or success after writes of W, OUT, the segment list and RES alone. -/
def RaisesOrWrites (s : State) (o : Host.Outcome State Fault Refusal) : Prop :=
  (∃ e, e ≠ LErr.none ∧ o = raise e s) ∨
    ∃ w out segs res, o = done ((((s.setW w).setOut out).setSegs segs).setRes res)

theorem raise_raisesOrWrites (s : State) {e : LErr} (h : e ≠ .none) : RaisesOrWrites s (raise e s) := .inl ⟨e, h, rfl⟩

/-- A success that writes RES alone. -/
theorem doneRes_raisesOrWrites (s : State) (r : Word) : RaisesOrWrites s (done (s.setRes r)) :=
  .inr ⟨s.w, s.out, s.segs, r, rfl⟩

theorem factoryCommit_raisesOrWrites (m : Mode) (n : Nat) (b : Bits) (s : State) :
    RaisesOrWrites s (factoryCommit m n b s) := by
  obtain ⟨-, h⟩ | ⟨-, h⟩ | ⟨-, -, h⟩ := factoryCommit_cases m n b s <;> rw [h]
  · exact raise_raisesOrWrites s (by decide)
  · exact raise_raisesOrWrites s (by decide)
  · exact .inr ⟨b, s.out, _, _, rfl⟩

theorem numericBody_raisesOrWrites (s : State) : RaisesOrWrites s (numericBody s) := by
  unfold numericBody
  split
  · exact factoryCommit_raisesOrWrites ..
  · exact raise_raisesOrWrites s (by decide)

theorem alnumBody_raisesOrWrites (s : State) : RaisesOrWrites s (alnumBody s) := by
  unfold alnumBody
  split
  · exact factoryCommit_raisesOrWrites ..
  · exact raise_raisesOrWrites s (by decide)

theorem getter_raisesOrWrites (sl : Nat) (s : State) (f : Segment → Word) :
    RaisesOrWrites s (withSlot sl s (fun g => s.setRes (f g))) := by
  obtain ⟨-, h⟩ | ⟨g, -, h⟩ := withSlot_cases sl s (fun g => s.setRes (f g)) <;> rw [h]
  · exact raise_raisesOrWrites s (by decide)
  · exact doneRes_raisesOrWrites s _

/-- Everything a command can do (R222 to R224). -/
theorem exec_cases (i : Instr) (s : State) :
    RaisesOrWrites s (exec i s) ∨
      ((∃ v, i = .totalBits v ∨ i = .serialize v) ∧ exec i s = capacityExceeded s) := by
  cases i with
  | nop => exact .inl (.inr ⟨s.w, s.out, s.segs, s.res, rfl⟩)
  | bbClear => exact .inl (.inr ⟨[], s.out, s.segs, s.res, rfl⟩)
  | bbAppend wd =>
    left
    simp only [exec, execBbAppend]
    split
    · exact raise_raisesOrWrites s (by decide)
    · split
      · exact raise_raisesOrWrites s (by decide)
      · exact .inr ⟨append s.w (immOperand s).toNat wd, s.out, s.segs, s.res, rfl⟩
  | bbLen => exact .inl (doneRes_raisesOrWrites s _)
  | modeInd md => exact .inl (doneRes_raisesOrWrites s _)
  | ccw md vr =>
    left
    simp only [exec, execCcw]
    split
    · exact doneRes_raisesOrWrites s _
    · exact raise_raisesOrWrites s (by decide)
  | segMake md =>
    left
    simp only [exec, execSegMake]
    split
    · exact raise_raisesOrWrites s (by decide)
    · split
      · exact raise_raisesOrWrites s (by decide)
      · exact .inr ⟨s.w, s.out, _, _, rfl⟩
  | segMode sl => exact .inl (getter_raisesOrWrites ..)
  | segCount sl => exact .inl (getter_raisesOrWrites ..)
  | segData sl =>
    left
    simp only [exec, execSegData]
    obtain ⟨-, h⟩ | ⟨g, -, h⟩ :=
      withSlot_cases sl s (fun seg => (s.setW seg.data).setRes (word32 seg.data.length)) <;> rw [h]
    · exact raise_raisesOrWrites s (by decide)
    · exact .inr ⟨g.data, s.out, s.segs, _, rfl⟩
  | listClear => exact .inl (.inr ⟨s.w, s.out, [], s.res, rfl⟩)
  | listLen => exact .inl (doneRes_raisesOrWrites s _)
  | segNum => exact .inl (numericBody_raisesOrWrites s)
  | segAlnum => exact .inl (alnumBody_raisesOrWrites s)
  | segBytes => exact .inl (factoryCommit_raisesOrWrites ..)
  | segEci =>
    left
    simp only [exec, execSegEci]
    split
    · exact raise_raisesOrWrites s (by decide)
    · exact factoryCommit_raisesOrWrites ..
  | segAuto =>
    left
    simp only [exec, execSegAuto]
    split
    · exact .inr ⟨[], s.out, s.segs, _, rfl⟩
    · split
      · exact numericBody_raisesOrWrites s
      · split
        · exact alnumBody_raisesOrWrites s
        · exact factoryCommit_raisesOrWrites ..
  | totalBits vr =>
    simp only [exec, execTotalBits]
    split
    · split
      · exact .inr ⟨⟨vr, .inl rfl⟩, rfl⟩
      · exact .inl (doneRes_raisesOrWrites s _)
    · exact .inl (raise_raisesOrWrites s (by decide))
  | outClear => exact .inl (.inr ⟨s.w, [], s.segs, s.res, rfl⟩)
  | outLen => exact .inl (doneRes_raisesOrWrites s _)
  | serialize vr =>
    simp only [exec, execSerialize]
    split
    · split
      · exact .inr ⟨⟨vr, .inr rfl⟩, rfl⟩
      · split
        · exact .inl (raise_raisesOrWrites s (by decide))
        · next r _ _ => exact .inl (.inr ⟨s.w, s.out ++ wireAll s.params vr s.segs, s.segs, word32 r, rfl⟩)
    · exact .inl (raise_raisesOrWrites s (by decide))

end Sys2Proof.Machine
end

