-- ==== Sys2Proof/Laws/Memory.lean ====
section
/-! SUPPORT. The input memory: a read after a write, and the canonical form. -/
namespace Sys2Proof.Machine

@[simp] theorem memGet_memSet_same (m : Memory) (o : Nat) (b : Byte) : memGet (memSet m o b) o = some b := by
  induction m with
  | nil => simp [memSet, memGet]
  | cons cell rest ih =>
    obtain ⟨a, x⟩ := cell
    simp only [memSet]
    split
    · simp [memGet]
    · split
      · simp [memGet]
      · next h => simp [memGet, h, ih]

theorem memGet_memSet_other (m : Memory) {o o' : Nat} (b : Byte) (h : o' ≠ o) :
    memGet (memSet m o b) o' = memGet m o' := by
  induction m with
  | nil => simp [memSet, memGet, Ne.symm h]
  | cons cell rest ih =>
    obtain ⟨a, x⟩ := cell
    simp only [memSet]
    split
    · simp [memGet, Ne.symm h]
    · split
      · next h2 => subst h2; simp [memGet, Ne.symm h]
      · simp [memGet, ih]

/-- Every listed offset is above `o`. -/
def memAbove (o : Nat) : Memory → Bool
  | [] => true
  | (a, _) :: rest => decide (o < a) && memAbove o rest

theorem memAbove_of_le {o a : Nat} (h : o ≤ a) : ∀ {m : Memory}, memAbove a m = true → memAbove o m = true
  | [], _ => rfl
  | (b, x) :: rest, hm => by
    simp only [memAbove, Bool.and_eq_true, decide_eq_true_eq] at hm ⊢
    exact ⟨by omega, memAbove_of_le h hm.2⟩

/-- The canonical form of a nonempty memory: its first offset is below all the others. -/
theorem Memory.wf_cons (a : Nat) (x : Byte) (m : Memory) :
    Memory.wf ((a, x) :: m) = true ↔ memAbove a m = true ∧ Memory.wf m = true := by
  induction m generalizing a x with
  | nil => simp [Memory.wf, memAbove]
  | cons cell rest ih =>
    obtain ⟨b, y⟩ := cell
    simp only [Memory.wf, memAbove, Bool.and_eq_true, decide_eq_true_eq]
    constructor
    · intro h
      exact ⟨⟨h.1, memAbove_of_le (by omega) ((ih b y).1 h.2).1⟩, h.2⟩
    · intro h
      exact ⟨h.1.1, h.2⟩

theorem memAbove_memSet {o a : Nat} (b : Byte) (h : a < o) : ∀ {m : Memory}, memAbove a m = true →
    memAbove a (memSet m o b) = true
  | [], _ => by simp [memSet, memAbove, h]
  | (c, x) :: rest, hm => by
    simp only [memSet]
    simp only [memAbove, Bool.and_eq_true, decide_eq_true_eq] at hm
    split
    · simp [memAbove, h, hm]
    · split
      · simp [memAbove, h, hm]
      · simp [memAbove, hm.1, memAbove_memSet b h hm.2]

/-- A write keeps the canonical form (R71). -/
theorem memSet_wf (m : Memory) (o : Nat) (b : Byte) (h : Memory.wf m = true) : Memory.wf (memSet m o b) = true := by
  induction m with
  | nil => rfl
  | cons cell rest ih =>
    obtain ⟨a, x⟩ := cell
    have hc := (Memory.wf_cons a x rest).1 h
    simp only [memSet]
    split
    · next ho =>
      refine (Memory.wf_cons _ _ _).2 ⟨?_, h⟩
      simp [memAbove, ho, memAbove_of_le (Nat.le_of_lt ho) hc.1]
    · split
      · next ho => subst ho; exact (Memory.wf_cons _ _ _).2 hc
      · exact (Memory.wf_cons _ _ _).2 ⟨memAbove_memSet b (by omega) hc.1, ih hc.2⟩

/-- The offsets listed after a write are the written one and those listed before. -/
theorem memSet_all (m : Memory) (o n : Nat) (b : Byte) (ho : o < n) (h : m.all (fun cell => cell.1 < n) = true) :
    (memSet m o b).all (fun cell => cell.1 < n) = true := by
  induction m with
  | nil => simp [memSet, ho]
  | cons cell rest ih =>
    obtain ⟨a, x⟩ := cell
    simp only [List.all_cons, Bool.and_eq_true, decide_eq_true_eq] at h
    simp only [memSet]
    split
    · simpa [ho, h.1] using h.2
    · split
      · simpa [ho] using h.2
      · simp only [List.all_cons, Bool.and_eq_true, decide_eq_true_eq]
        exact ⟨h.1, ih h.2⟩

/-- Reset memory is in canonical form. -/
theorem reset_memory_wf : Memory.wf State.reset.input = true := rfl

/-- What a write of one byte of IN can do: it lands where IN has the offset, and is dropped otherwise (R71). -/
theorem inWriteByte_cases (o : Nat) (b : Byte) (s : State) :
    (o < s.params.inBytes ∧ inWriteByte o b s = s.setInput (memSet s.input o b)) ∨
      (s.params.inBytes ≤ o ∧ inWriteByte o b s = s) := by
  unfold inWriteByte
  split
  · exact .inl ⟨‹_›, rfl⟩
  · exact .inr ⟨by omega, rfl⟩

/-- A byte of IN after a write of one byte (R71). -/
theorem inByte_inWriteByte (o o' : Nat) (b : Byte) (s : State) :
    inByte (inWriteByte o b s) o' = if o' = o ∧ o < s.params.inBytes then b else inByte s o' := by
  obtain ⟨h, e⟩ | ⟨h, e⟩ := inWriteByte_cases o b s
  · rw [e]
    by_cases ho : o' = o
    · subst ho; simp [inByte, h]
    · simp [inByte, ho, memGet_memSet_other]
  · rw [e]
    simp [Nat.not_lt.2 h]

/-! A write of IN leaves every other part of the state (R71). -/

@[simp] theorem inWriteByte_params (o : Nat) (b : Byte) (s : State) : (inWriteByte o b s).params = s.params := by
  unfold inWriteByte; split <;> rfl
@[simp] theorem inWriteByte_status (o : Nat) (b : Byte) (s : State) : (inWriteByte o b s).status = s.status := by
  unfold inWriteByte; split <;> rfl
@[simp] theorem inWriteByte_res (o : Nat) (b : Byte) (s : State) : (inWriteByte o b s).res = s.res := by
  unfold inWriteByte; split <;> rfl
@[simp] theorem inWriteByte_imm (o : Nat) (b : Byte) (s : State) : (inWriteByte o b s).imm = s.imm := by
  unfold inWriteByte; split <;> rfl
@[simp] theorem inWriteByte_inlen (o : Nat) (b : Byte) (s : State) : (inWriteByte o b s).inlen = s.inlen := by
  unfold inWriteByte; split <;> rfl
@[simp] theorem inWriteByte_cmdlast (o : Nat) (b : Byte) (s : State) : (inWriteByte o b s).cmdlast = s.cmdlast := by
  unfold inWriteByte; split <;> rfl
@[simp] theorem inWriteByte_w (o : Nat) (b : Byte) (s : State) : (inWriteByte o b s).w = s.w := by
  unfold inWriteByte; split <;> rfl
@[simp] theorem inWriteByte_out (o : Nat) (b : Byte) (s : State) : (inWriteByte o b s).out = s.out := by
  unfold inWriteByte; split <;> rfl
@[simp] theorem inWriteByte_segs (o : Nat) (b : Byte) (s : State) : (inWriteByte o b s).segs = s.segs := by
  unfold inWriteByte; split <;> rfl
@[simp] theorem inWriteByte_inEpoch (o : Nat) (b : Byte) (s : State) : (inWriteByte o b s).inEpoch = s.inEpoch := by
  unfold inWriteByte; split <;> rfl
@[simp] theorem inWriteByte_pending (o : Nat) (b : Byte) (s : State) : (inWriteByte o b s).pending = s.pending := by
  unfold inWriteByte; split <;> rfl
@[simp] theorem inWriteByte_rdata (o : Nat) (b : Byte) (s : State) : (inWriteByte o b s).rdata = s.rdata := by
  unfold inWriteByte; split <;> rfl
@[simp] theorem inWriteByte_segcnt (o : Nat) (b : Byte) (s : State) : (inWriteByte o b s).segcnt = s.segcnt := by
  simp [State.segcnt]
@[simp] theorem inWriteWord_params (o : Nat) (d : Word) (s : State) : (inWriteWord o d s).params = s.params := by
  simp [inWriteWord]
@[simp] theorem inWriteWord_status (o : Nat) (d : Word) (s : State) : (inWriteWord o d s).status = s.status := by
  simp [inWriteWord]
@[simp] theorem inWriteWord_res (o : Nat) (d : Word) (s : State) : (inWriteWord o d s).res = s.res := by
  simp [inWriteWord]
@[simp] theorem inWriteWord_imm (o : Nat) (d : Word) (s : State) : (inWriteWord o d s).imm = s.imm := by
  simp [inWriteWord]
@[simp] theorem inWriteWord_inlen (o : Nat) (d : Word) (s : State) : (inWriteWord o d s).inlen = s.inlen := by
  simp [inWriteWord]
@[simp] theorem inWriteWord_cmdlast (o : Nat) (d : Word) (s : State) : (inWriteWord o d s).cmdlast = s.cmdlast := by
  simp [inWriteWord]
@[simp] theorem inWriteWord_w (o : Nat) (d : Word) (s : State) : (inWriteWord o d s).w = s.w := by
  simp [inWriteWord]
@[simp] theorem inWriteWord_out (o : Nat) (d : Word) (s : State) : (inWriteWord o d s).out = s.out := by
  simp [inWriteWord]
@[simp] theorem inWriteWord_segs (o : Nat) (d : Word) (s : State) : (inWriteWord o d s).segs = s.segs := by
  simp [inWriteWord]
@[simp] theorem inWriteWord_inEpoch (o : Nat) (d : Word) (s : State) : (inWriteWord o d s).inEpoch = s.inEpoch := by
  simp [inWriteWord]
@[simp] theorem inWriteWord_pending (o : Nat) (d : Word) (s : State) : (inWriteWord o d s).pending = s.pending := by
  simp [inWriteWord]
@[simp] theorem inWriteWord_rdata (o : Nat) (d : Word) (s : State) : (inWriteWord o d s).rdata = s.rdata := by
  simp [inWriteWord]
@[simp] theorem inWriteWord_segcnt (o : Nat) (d : Word) (s : State) : (inWriteWord o d s).segcnt = s.segcnt := by
  simp [inWriteWord]

/-- A write of one byte changes nothing but the input memory. -/
theorem inWriteByte_frame (o : Nat) (b : Byte) (s : State) :
    inWriteByte o b s = s.setInput (inWriteByte o b s).input := by
  obtain ⟨-, e⟩ | ⟨-, e⟩ := inWriteByte_cases o b s <;> rw [e] <;> rfl

/-- A write of a word changes nothing but the input memory. -/
theorem inWriteWord_frame (o : Nat) (d : Word) (s : State) :
    inWriteWord o d s = s.setInput (inWriteWord o d s).input := by
  unfold inWriteWord
  rw [inWriteByte_frame (o + 3), inWriteByte_frame (o + 2), inWriteByte_frame (o + 1), inWriteByte_frame o]
  rfl

/-- A write of one byte keeps the input memory's form (R47). -/
theorem inWriteByte_inputOk (o : Nat) (b : Byte) (s : State) (hw : Memory.wf s.input = true)
    (ha : s.input.all (fun cell => cell.1 < s.params.inBytes) = true) :
    Memory.wf (inWriteByte o b s).input = true ∧
      (inWriteByte o b s).input.all (fun cell => cell.1 < s.params.inBytes) = true := by
  obtain ⟨h, e⟩ | ⟨-, e⟩ := inWriteByte_cases o b s <;> rw [e]
  · exact ⟨memSet_wf _ _ _ hw, memSet_all _ _ _ _ h ha⟩
  · exact ⟨hw, ha⟩

@[simp] theorem memRead_length (s : State) (n : Nat) : (memRead s n).length = n := by simp [memRead]

end Sys2Proof.Machine
end

