-- ==== Sys2Proof/Laws/PerInstr.lean ====
section
/-! SUPPORT. Facts about every command as syntax, one lemma per constructor. Family `OwnOpcode`: the word of a
well-formed command carries the command's opcode in OP, and its RSV field is 0 (R91, R95). -/
namespace Sys2Proof.Laws.OwnOpcode

/-- The position of a command's row in the opcode map (R95). -/
def opcode : Instr → Nat
  | .nop => 0x00
  | .bbClear => 0x01
  | .bbAppend _ => 0x02
  | .bbLen => 0x03
  | .modeInd _ => 0x04
  | .ccw _ _ => 0x05
  | .segMake _ => 0x06
  | .segMode _ => 0x07
  | .segCount _ => 0x08
  | .segData _ => 0x09
  | .listClear => 0x0A
  | .listLen => 0x0B
  | .segNum => 0x0C
  | .segAlnum => 0x0D
  | .segBytes => 0x0E
  | .segEci => 0x0F
  | .segAuto => 0x10
  | .totalBits _ => 0x11
  | .outClear => 0x12
  | .outLen => 0x13
  | .serialize _ => 0x14

def Statement (i : Instr) : Prop :=
  i.wellFormed = true → opField (encode i) = opcode i ∧ rsvField (encode i) = 0

/-- Fields in range pack into a word whose OP is the given one and whose RSV is 0. -/
theorem packFields_fields {op wd md vr sl : Nat} (ho : op ≤ 63) (hw : wd ≤ 31) (hm : md ≤ 15) (hv : vr ≤ 63)
    (hs : sl ≤ 63) : opField (packFields op wd md vr sl) = op ∧ rsvField (packFields op wd md vr sl) = 0 := by
  simp only [opField, rsvField, wordField, packFields, BitVec.toNat_ofNat]
  omega

theorem modeIndicator_le (md : Mode) : modeIndicator md ≤ 15 := by cases md <;> decide

theorem nop : Statement .nop := fun _ => by decide
theorem bbClear : Statement .bbClear := fun _ => by decide
theorem bbAppend (wd : Nat) : Statement (.bbAppend wd) := fun h =>
  packFields_fields (by decide) (of_decide_eq_true h) (by decide) (by decide) (by decide)
theorem bbLen : Statement .bbLen := fun _ => by decide
theorem modeInd (md : Mode) : Statement (.modeInd md) := fun _ =>
  packFields_fields (by decide) (by decide) (modeIndicator_le md) (by decide) (by decide)
theorem ccw (md : Mode) (vr : Nat) : Statement (.ccw md vr) := fun h =>
  packFields_fields (by decide) (by decide) (modeIndicator_le md) (of_decide_eq_true h) (by decide)
theorem segMake (md : Mode) : Statement (.segMake md) := fun _ =>
  packFields_fields (by decide) (by decide) (modeIndicator_le md) (by decide) (by decide)
theorem segMode (sl : Nat) : Statement (.segMode sl) := fun h =>
  packFields_fields (by decide) (by decide) (by decide) (by decide) (of_decide_eq_true h)
theorem segCount (sl : Nat) : Statement (.segCount sl) := fun h =>
  packFields_fields (by decide) (by decide) (by decide) (by decide) (of_decide_eq_true h)
theorem segData (sl : Nat) : Statement (.segData sl) := fun h =>
  packFields_fields (by decide) (by decide) (by decide) (by decide) (of_decide_eq_true h)
theorem listClear : Statement .listClear := fun _ => by decide
theorem listLen : Statement .listLen := fun _ => by decide
theorem segNum : Statement .segNum := fun _ => by decide
theorem segAlnum : Statement .segAlnum := fun _ => by decide
theorem segBytes : Statement .segBytes := fun _ => by decide
theorem segEci : Statement .segEci := fun _ => by decide
theorem segAuto : Statement .segAuto := fun _ => by decide
theorem totalBits (vr : Nat) : Statement (.totalBits vr) := fun h =>
  packFields_fields (by decide) (by decide) (by decide) (of_decide_eq_true h) (by decide)
theorem outClear : Statement .outClear := fun _ => by decide
theorem outLen : Statement .outLen := fun _ => by decide
theorem serialize (vr : Nat) : Statement (.serialize vr) := fun h =>
  packFields_fields (by decide) (by decide) (by decide) (of_decide_eq_true h) (by decide)

end Sys2Proof.Laws.OwnOpcode
end

