-- ==== Sys2Proof/Laws/Port.lean ====
section
/-! SUPPORT. The host port: what a write can do, and, once for all, everything a step can do. -/
namespace Sys2Proof.Machine

/-- Two word addresses with one byte address are the same (R60). -/
theorem byteAddr_inj {a b : PortAddr} (h : byteAddr a = byteAddr b) : a = b := by
  apply BitVec.eq_of_toNat_eq; unfold byteAddr at h; omega

/-- What a host write can do, by address (R62, R63). -/
theorem portWrite_cases (a : Nat) (d : Word) (s : State) :
    (a = 0x0004 ∧ portWrite a d s = .next (s.setStatus (statusHostWrite s.status d))) ∨
    (a = 0x000C ∧ portWrite a d s = .next (s.setImm d)) ∨
    (a = 0x0010 ∧ portWrite a d s = .next (s.setInlen (clampInlen s d))) ∨
    (a = 0x0014 ∧ portWrite a d s = issue d s) ∨
    ((0x1000 ≤ a ∧ a < 0x2000) ∧ portWrite a d s = .next (inWriteWord (a - 0x1000) d s)) ∨
    ((a ≠ 0x0004 ∧ a ≠ 0x000C ∧ a ≠ 0x0010 ∧ a ≠ 0x0014 ∧ (a < 0x1000 ∨ 0x2000 ≤ a)) ∧ portWrite a d s = .next s) := by
  unfold portWrite
  by_cases h1 : a = 0x0004
  · exact .inl ⟨h1, if_pos h1⟩
  rw [if_neg h1]
  by_cases h2 : a = 0x000C
  · exact .inr (.inl ⟨h2, if_pos h2⟩)
  rw [if_neg h2]
  by_cases h3 : a = 0x0010
  · exact .inr (.inr (.inl ⟨h3, if_pos h3⟩))
  rw [if_neg h3]
  by_cases h4 : a = 0x0014
  · exact .inr (.inr (.inr (.inl ⟨h4, if_pos h4⟩)))
  rw [if_neg h4]
  by_cases h5 : 0x1000 ≤ a ∧ a < 0x2000
  · exact .inr (.inr (.inr (.inr (.inl ⟨h5, if_pos h5⟩))))
  rw [if_neg h5]
  exact .inr (.inr (.inr (.inr (.inr ⟨⟨h1, h2, h3, h4, by omega⟩, rfl⟩))))

/-- With no access to come the block is idle (R236). -/
theorem step_idle {s : State} (h : s.pending = []) : step s = .next s := by unfold step; rw [h]
/-- A step is the host's next access (R74). -/
theorem step_event {s : State} {e : HostEvent} {rest : List HostEvent} (h : s.pending = e :: rest) :
    step s = perform e (s.setPending rest) := by unfold step; rw [h]

/-- A write to CMD issues its word (R93). -/
theorem step_cmd {s : State} {c : Word} {rest : List HostEvent} (h : s.pending = .write 0x0005 c :: rest) :
    step s = issue c (s.setPending rest) := by
  rw [step_event h]; rfl

/-- Everything a step can do. -/
theorem step_cases {s t : State} (h : step s = .next t) :
    (s.pending = [] ∧ t = s) ∨
    (∃ a rest, s.pending = .read a :: rest ∧
      t = (s.setPending rest).setRdata (portRead (s.setPending rest) (byteAddr a))) ∨
    (∃ rest, s.pending = .reset :: rest ∧ t = afterReset (s.setPending rest)) ∨
    (∃ c rest, s.pending = .write 0x0005 c :: rest ∧ issue c (s.setPending rest) = .next t) ∨
    (∃ d rest, s.pending = .write 0x0001 d :: rest ∧
      t = (s.setPending rest).setStatus (statusHostWrite s.status d)) ∨
    (∃ d rest, s.pending = .write 0x0003 d :: rest ∧ t = (s.setPending rest).setImm d) ∨
    (∃ d rest, s.pending = .write 0x0004 d :: rest ∧ t = (s.setPending rest).setInlen (clampInlen s d)) ∨
    (∃ a d rest, s.pending = .write a d :: rest ∧ 0x1000 ≤ byteAddr a ∧ byteAddr a < 0x2000 ∧
      t = inWriteWord (byteAddr a - 0x1000) d (s.setPending rest)) ∨
    (∃ a d rest, s.pending = .write a d :: rest ∧ (byteAddr a ≠ 0x0004 ∧ byteAddr a ≠ 0x000C ∧ byteAddr a ≠ 0x0010 ∧
      byteAddr a ≠ 0x0014 ∧ (byteAddr a < 0x1000 ∨ 0x2000 ≤ byteAddr a)) ∧ t = s.setPending rest) := by
  cases hp : s.pending with
  | nil => rw [step_idle hp] at h; cases h; exact .inl ⟨rfl, rfl⟩
  | cons e rest =>
    rw [step_event hp] at h
    cases e with
    | read a => cases h; exact .inr (.inl ⟨a, rest, rfl, rfl⟩)
    | reset => cases h; exact .inr (.inr (.inl ⟨rest, rfl, rfl⟩))
    | write a d =>
      have e1 : perform (.write a d) (s.setPending rest) = portWrite (byteAddr a) d (s.setPending rest) := rfl
      rw [e1] at h
      have addr : ∀ b : PortAddr, byteAddr a = byteAddr b → a = b := fun b => byteAddr_inj
      obtain ⟨ha, hw⟩ | ⟨ha, hw⟩ | ⟨ha, hw⟩ | ⟨ha, hw⟩ | ⟨ha, hw⟩ | ⟨ha, hw⟩ := 
        portWrite_cases (byteAddr a) d (s.setPending rest) <;> rw [hw] at h
      · cases addr 0x0001 ha; cases h; exact .inr (.inr (.inr (.inr (.inl ⟨d, rest, rfl, rfl⟩))))
      · cases addr 0x0003 ha; cases h; exact .inr (.inr (.inr (.inr (.inr (.inl ⟨d, rest, rfl, rfl⟩)))))
      · cases addr 0x0004 ha; cases h; exact .inr (.inr (.inr (.inr (.inr (.inr (.inl ⟨d, rest, rfl, rfl⟩))))))
      · cases addr 0x0005 ha; exact .inr (.inr (.inr (.inl ⟨d, rest, rfl, h⟩)))
      · cases h; exact .inr (.inr (.inr (.inr (.inr (.inr (.inr (.inl ⟨a, d, rest, rfl, ha.1, ha.2, rfl⟩)))))))
      · cases h; exact .inr (.inr (.inr (.inr (.inr (.inr (.inr (.inr ⟨a, d, rest, rfl, ha, rfl⟩)))))))

end Sys2Proof.Machine
end

