-- ==== Sys2Proof/Tests/Slice0.lean ====
section
/-! SUPPORT. Tests: ill-formed terms, decoding of words written out from the spec's encodings, one step of each command
with the results of 95_test_vectors.md, and a witness for the hypotheses of each statement. -/
namespace Sys2Proof.Tests

open Sys2Proof.Machine Sys2Proof.Spec

/-! WellFormed refuses a field out of the range of its bits (R91). -/

theorem test_wf_bbAppend : (Instr.bbAppend 32).wellFormed = false := by decide
theorem test_wf_ccw : (Instr.ccw .byte 64).wellFormed = false := by decide
theorem test_wf_segMode : (Instr.segMode 64).wellFormed = false := by decide
theorem test_wf_segCount : (Instr.segCount 64).wellFormed = false := by decide
theorem test_wf_segData : (Instr.segData 64).wellFormed = false := by decide
theorem test_wf_totalBits : (Instr.totalBits 64).wellFormed = false := by decide
theorem test_wf_serialize : (Instr.serialize 64).wellFormed = false := by decide

/-! Decoding. Each word is RSV, SL, VR, MD, WD and OP from the left, in 5, 6, 6, 4, 5 and 6 bits (R91, R95). -/

theorem test_dec_nop : decode 0b00000_000000_000000_0000_00000_000000#32 = .command .nop := by decide
theorem test_dec_bbClear : decode 0b00000_000000_000000_0000_00000_000001#32 = .command .bbClear := by decide
theorem test_dec_bbAppend : decode 0b00000_000000_000000_0000_10110_000010#32 = .command (.bbAppend 22) := by decide
theorem test_dec_bbLen : decode 0b00000_000000_000000_0000_00000_000011#32 = .command .bbLen := by decide
theorem test_dec_modeInd : decode 0b00000_000000_000000_0111_00000_000100#32 = .command (.modeInd .eci) := by decide
theorem test_dec_ccw : decode 0b00000_000000_101001_1000_00000_000101#32 = .command (.ccw .kanji 41) := by decide
theorem test_dec_segMake : decode 0b00000_000000_000000_0010_00000_000110#32 = .command (.segMake .alphanumeric) := by
  decide
theorem test_dec_segMode : decode 0b00000_100001_000000_0000_00000_000111#32 = .command (.segMode 33) := by decide
theorem test_dec_segCount : decode 0b00000_110000_000000_0000_00000_001000#32 = .command (.segCount 48) := by decide
theorem test_dec_segData : decode 0b00000_000001_000000_0000_00000_001001#32 = .command (.segData 1) := by decide
theorem test_dec_listClear : decode 0b00000_000000_000000_0000_00000_001010#32 = .command .listClear := by decide
theorem test_dec_listLen : decode 0b00000_000000_000000_0000_00000_001011#32 = .command .listLen := by decide
theorem test_dec_segNum : decode 0b00000_000000_000000_0000_00000_001100#32 = .command .segNum := by decide
theorem test_dec_segAlnum : decode 0b00000_000000_000000_0000_00000_001101#32 = .command .segAlnum := by decide
theorem test_dec_segBytes : decode 0b00000_000000_000000_0000_00000_001110#32 = .command .segBytes := by decide
theorem test_dec_segEci : decode 0b00000_000000_000000_0000_00000_001111#32 = .command .segEci := by decide
theorem test_dec_segAuto : decode 0b00000_000000_000000_0000_00000_010000#32 = .command .segAuto := by decide
theorem test_dec_totalBits : decode 0b00000_000000_100101_0000_00000_010001#32 = .command (.totalBits 37) := by decide
theorem test_dec_outClear : decode 0b00000_000000_000000_0000_00000_010010#32 = .command .outClear := by decide
theorem test_dec_outLen : decode 0b00000_000000_000000_0000_00000_010011#32 = .command .outLen := by decide
theorem test_dec_serialize : decode 0b00000_000000_010001_0000_00000_010100#32 = .command (.serialize 17) := by decide

/-- A reserved opcode, a nonzero RSV, a nonzero unused field, an MD that is no mode (R96). -/
theorem test_dec_illegal :
    decode 0x00000015 = .illegal .reservedOpcode ∧ decode 0x0800000C = .illegal .unusedFieldNonzero ∧
    decode 0x00000802 = .illegal .unusedFieldNonzero ∧ decode 0x00001804 = .illegal .notAMode := by decide

/-! One command. -/

/-- Small parameters that meet the constraints of R8. -/
def small : Config.Params := { defaultParams with inBytes := 8, wBits := 64, oBits := 64, nSeg := 2 }

/-- The reset state with the small parameters. -/
def base : State := { State.reset with params := small }

/-- IN written with the given bytes from offset 0, and INLEN their number. -/
def text (bytes : List Byte) (s : State) : State :=
  { s with input := (List.range bytes.length).zip bytes, inlen := BitVec.ofNat 32 bytes.length }

/-- The state after the command word `c`; the state itself if there is none. -/
def after (c : Word) (s : State) : State :=
  match step { s with pending := [.write 0x0005 c] } with
  | .next t => t
  | _ => s

/-- STATUS as the host reads it. -/
def statusOf (s : State) : Word := statusWord s.status

/-- 95_test_vectors.md 2.1, P4: IMM 5 in 4 bits, then a value that does not fit, then the length. -/
theorem test_bb_append : (after 0x00000102 { base with imm := 5 }).w = [false, true, false, true] ∧
    windowWord (after 0x00000102 { base with imm := 5 }).w 0 = 0x00000050 := by decide
theorem test_bb_append_too_wide : statusOf (after 0x00000102 { base with imm := 16 }) = 0x101 ∧
    (after 0x00000102 { base with imm := 16 }).w = [] ∧
    statusOf (after 0x00000142 { base with imm := 0xFFFFFFFF }) = 0x101 := by decide
theorem test_bb_clear : (after 0x00000001 { base with w := [true, false] }).w = [] := by decide
theorem test_bb_len : (after 0x00000003 { base with w := [false, true, false, true] }).res = 4 := by decide

/-- 95_test_vectors.md 2.2. -/
theorem test_mode_ind : (after 0x00003804 base).res = 7 ∧ (after 0x00004004 base).res = 8 := by decide
theorem test_ccw : (after 0x0004A005 base).res = 8 ∧ (after 0x00052005 base).res = 16 ∧
    (after 0x000D4005 base).res = 10 ∧ (after 0x000DC005 base).res = 12 := by decide
theorem test_ccw_bad_version : statusOf (after 0x00000805 base) = 0x103 ∧ statusOf (after 0x00148805 base) = 0x103 ∧
    statusOf (after 0x00001805 base) = 0x102 := by decide

/-- The segment of the example of R140. -/
def seg5 : Segment := { mode := .numeric, count := 1, data := [false, true, false, true] }

theorem test_seg_make : (after 0x00000806 { base with imm := 1, w := [false, true, false, true] }).segs = [seg5] ∧
    (after 0x00000806 { base with imm := 1, w := [false, true, false, true] }).res = 1 := by decide
/-- R226: SEG_MAKE with IMM = -1 and a full list reports InvalidArgument; with a count, ListFull. -/
theorem test_seg_make_errors :
    statusOf (after 0x00000806 { base with imm := 0xFFFFFFFF, segs := [seg5, seg5] }) = 0x101 ∧
    statusOf (after 0x00000806 { base with segs := [seg5, seg5] }) = 0x105 := by decide
theorem test_seg_mode : (after 0x00000007 { base with segs := [seg5] }).res = 1 ∧
    statusOf (after 0x00200007 { base with segs := [seg5] }) = 0x104 := by decide
theorem test_seg_count : (after 0x00000008 { base with segs := [{ seg5 with count := 0x7FFFFFFF }] }).res = 0x7FFFFFFF := by
  decide
theorem test_seg_data : (after 0x00000009 { base with segs := [seg5] }).w = seg5.data ∧
    (after 0x00000009 { base with segs := [seg5] }).res = 4 := by decide
theorem test_list_clear : (after 0x0000000A { base with segs := [seg5] }).segs = [] := by decide
theorem test_list_len : (after 0x0000000B { base with segs := [seg5, seg5] }).res = 2 := by decide

/-- 95_test_vectors.md 2.3: "01234567" and "12A". -/
theorem test_seg_num :
    windowWord (after 0x0000000C (text [0x30, 0x31, 0x32, 0x33, 0x34, 0x35, 0x36, 0x37] base)).w 0 = 0x60981503 ∧
    (after 0x0000000C (text [0x30, 0x31, 0x32, 0x33, 0x34, 0x35, 0x36, 0x37] base)).w.length = 27 := by decide
theorem test_seg_num_not_digits : statusOf (after 0x0000000C (text [0x31, 0x32, 0x41] base)) = 0x101 := by decide
/-- 95_test_vectors.md 2.4: "AC-42", "$%*+-./:" and "A#". -/
theorem test_seg_alnum :
    windowWord (after 0x0000000D (text [0x41, 0x43, 0x2D, 0x34, 0x32] base)).w 0 = 0x20E4DC39 ∧
    windowWord (after 0x0000000D (text [0x24, 0x25, 0x2A, 0x2B, 0x2D, 0x2E, 0x2F, 0x3A] base)).w 0 = 0xAF0FFCD4 := by
  decide
theorem test_seg_alnum_not_in_set : statusOf (after 0x0000000D (text [0x41, 0x23] base)) = 0x101 := by decide
/-- 95_test_vectors.md 2.6: "hello". -/
theorem test_seg_bytes :
    windowWord (after 0x0000000E (text [0x68, 0x65, 0x6C, 0x6C, 0x6F] base)).w 0 = 0x6C6C6568 ∧
    windowWord (after 0x0000000E (text [0x68, 0x65, 0x6C, 0x6C, 0x6F] base)).w 1 = 0x0000006F := by decide
/-- 95_test_vectors.md 2.7: 16383, 999999 and 1000000. -/
theorem test_seg_eci : windowWord (after 0x0000000F { base with imm := 0x3FFF }).w 0 = 0x0000FFBF ∧
    windowWord (after 0x0000000F { base with imm := 0xF423F }).w 0 = 0x003F42CF := by decide
theorem test_seg_eci_range : statusOf (after 0x0000000F { base with imm := 0xF4240 }) = 0x101 ∧
    statusOf (after 0x0000000F { base with imm := 0xFFFFFFFF }) = 0x101 := by decide
/-- 95_test_vectors.md 2.8: "12A" is alphanumeric, "A a" is bytes, "12" is numeric. -/
theorem test_seg_auto :
    (after 0x00000010 (text [0x31, 0x32, 0x41] base)).segs.map (fun g => (g.mode, g.count, g.data.length)) =
      [(.alphanumeric, 3, 17)] ∧
    (after 0x00000010 (text [0x41, 0x20, 0x61] base)).segs.map (fun g => (g.mode, g.count, g.data.length)) =
      [(.byte, 3, 24)] ∧
    (after 0x00000010 (text [0x31, 0x32] base)).segs.map (fun g => (g.mode, g.count, g.data.length)) =
      [(.numeric, 2, 7)] := by decide
theorem test_seg_auto_empty : (after 0x00000010 { base with segs := [seg5, seg5], w := [true] }).w = [] ∧
    (after 0x00000010 { base with segs := [seg5, seg5], w := [true] }).res = 2 ∧
    statusOf (after 0x00000010 { base with segs := [seg5, seg5], w := [true] }) = 0 := by decide

/-- A segment without data. -/
def bare (m : Mode) (n : Nat) : Segment := { mode := m, count := n, data := [] }

/-- 95_test_vectors.md 2.5. -/
theorem test_total_bits : (after 0x00008011 { base with segs := [bare .numeric 1023] }).res = 14 ∧
    (after 0x00050011 { base with segs := [bare .byte 256] }).res = 20 ∧
    (after 0x00050011 { base with segs := [{ mode := .numeric, count := 2, data := List.replicate 7 true },
      { mode := .alphanumeric, count := 600, data := List.replicate 7 true }] }).res = 45 := by decide
theorem test_total_bits_capacity :
    (after 0x00008011 { base with segs := [bare .numeric 1024] }).res = 0xFFFFFFFF ∧
    statusOf (after 0x00008011 { base with segs := [bare .numeric 1024] }) = 0x010 ∧
    statusOf (after 0x00140011 { base with segs := [bare .eci 1] }) = 0x010 ∧
    statusOf (after 0x00000011 base) = 0x103 := by decide
theorem test_out_clear : (after 0x00000012 { base with out := [true] }).out = [] := by decide
theorem test_out_len : (after 0x00000013 { base with out := [true, false, true] }).res = 3 := by decide

/-- The segment SEG_NUM makes of "01234567" (P1). -/
def segP1 : Segment := { mode := .numeric, count := 8, data := bitsof 12 10 ++ bitsof 345 10 ++ bitsof 67 7 }

/-- P1: the stream of version 1, read from the OUT window. -/
theorem test_serialize : windowWord (after 0x00008014 { base with segs := [segP1] }).out 0 = 0x560C2010 ∧
    windowWord (after 0x00008014 { base with segs := [segP1] }).out 1 = 0x00008061 ∧
    (after 0x00008014 { base with segs := [segP1] }).res = 41 := by decide
theorem test_serialize_full : statusOf (after 0x00008014 { base with segs := [segP1], out := segP1.data }) = 0x106 ∧
    (after 0x00008014 { base with segs := [segP1], out := segP1.data }).out = segP1.data := by decide
/-- R210: NOP resets LERR and leaves ERRS. -/
theorem test_nop : statusOf (after 0 { base with status := { lerr := .badSlot, capx := true, errs := true } }) = 0x100 ∧
    (after 0 { base with res := 9 }).res = 9 := by decide
/-- R96: an illegal word only reports its error, and CMDLAST holds it. -/
theorem test_illegal : statusOf (after 0x00000802 base) = 0x102 ∧ (after 0x00000802 base).cmdlast = 0x00000802 ∧
    (after 0x00000802 { base with w := [true] }).w = [true] := by decide

/-! The host port. -/

/-- The state after one host write; the state itself if there is none. -/
def written (a : PortAddr) (d : Word) (s : State) : State :=
  match step { s with pending := [.write a d] } with
  | .next t => t
  | _ => s

/-- P5 step 3: a word write of IN at its last four bytes and back; past IN_BYTES nothing lands. -/
theorem test_in_window : portRead (written 0x401 0x00333231 base) 0x1004 = 0x00333231 ∧
    inByte (written 0x401 0x00333231 base) 5 = 0x32 ∧ portRead (written 0x402 0x00333231 base) 0x1008 = 0 := by decide
theorem test_inlen_clamped : (written 0x4 0xFFFFFFFF base).inlen = 8 ∧ (written 0x4 7 base).inlen = 7 := by decide
/-- P4 steps 10 and 11. -/
theorem test_clear_errs :
    statusOf (written 0x1 0 { base with status := { lerr := .badSlot, capx := false, errs := true } }) = 0x104 ∧
    statusOf (written 0x1 0x100 { base with status := { lerr := .badSlot, capx := false, errs := true } }) = 0x004 := by
  decide
/-- R39. -/
theorem test_id : portRead State.reset 0 = 0x51530001 := by decide

/-! Witnesses: a state and operands that meet the hypotheses of each statement, at the boundaries of each clause. -/

theorem witness_DecodeOfEncodeIsTheCommand : (Instr.bbAppend 31).wellFormed = true ∧
    (Instr.ccw .kanji 63).wellFormed = true ∧ (Instr.segData 63).wellFormed = true := by decide
theorem witness_EncodeOfDecodeIsTheWord : decode 0x001F8014 = .command (.serialize 63) := by decide
theorem witness_IllegalWordsAreTheReservedOnes :
    { base with pending := [cmdWrite 0x3F] }.pending = [.write 0x0005 0x3F] ∧ Illegal 0x3F :=
  ⟨rfl, .reservedOpcode, by decide⟩
theorem witness_LegalWordsNumberSixHundredNinetyFour :
    ∃ r, opcodeMap[0x14]? = some r ∧ 0x001F8014 &&& r.mask = r.pattern := ⟨_, rfl, by decide⟩
theorem witness_ModeCodesNameTheFiveModes : 0 ∉ [1, 2, 4, 7, 8] ∧ 3 ∉ [1, 2, 4, 7, 8] ∧ 9 ∉ [1, 2, 4, 7, 8] := by decide
theorem witness_StepRunsTheDecodedCommand :
    (base.withFetchWord 32 0xC).pending = [.write 0x0005 0xC] ∧ decode 0xC = .command .segNum := by decide
theorem witness_CmdlastHoldsTheLatestCommandWord :
    { base with pending := [.write 0x0005 0x15] }.pending = [.write 0x0005 0x15] ∧
    { base with pending := [.read 0x0005] }.pending = [.read 0x0005] := ⟨rfl, rfl⟩
theorem witness_HostReadChangesNothing : { base with pending := [.read 0x3FFF] }.pending = [.read 0x3FFF] := rfl
theorem witness_IdleBlockKeepsItsState : base.pending = [] := rfl
theorem witness_RegisterMapReadsAndWrites :
    { base with pending := [.write 0x0006 1] }.pending = [.write 0x0006 1] ∧
    4 * (0x0000 : PortAddr).toNat = 0x0000 ∧ 4 * (0x0001 : PortAddr).toNat = 0x0004 ∧
    4 * (0x0002 : PortAddr).toNat = 0x0008 ∧ 4 * (0x0003 : PortAddr).toNat = 0x000C ∧
    4 * (0x0004 : PortAddr).toNat = 0x0010 ∧ 4 * (0x0005 : PortAddr).toNat = 0x0014 ∧
    4 * (0x0006 : PortAddr).toNat = 0x0018 ∧ 4 * (0x03FF : PortAddr).toNat = 0x0FFC := by decide
theorem witness_StatusWordPlacesItsFields : (5 ≤ 5 ∧ 7 ≤ 7) ∧ 9 ≤ 9 ∧ 9 ≤ 31 := by decide
theorem witness_StatusWriteClearsErrs :
    { base with pending := [.write 0x0001 0x100] }.pending = [.write 0x0001 0x100] ∧
    (0x100 : Word).getLsbD 8 = true := by decide

/-- A state with ERRS set. -/
def errState : State := { base with status := { lerr := .badSlot, capx := false, errs := true } }

theorem witness_ErrsFallsOnlyByHostWriteOrReset :
    (∃ t, step { errState with pending := [.write 0x0001 0x100] } = .next t ∧ t.status.errs = false) ∧
    (∃ t, step { errState with pending := [.reset] } = .next t ∧ t.status.errs = false) ∧ errState.status.errs = true :=
  ⟨⟨_, rfl, by decide⟩, ⟨_, rfl, by decide⟩, rfl⟩
theorem witness_InlenWriteIsClamped : paramsValid base.params = true ∧
    { base with pending := [.write 0x0004 9] }.pending = [.write 0x0004 9] ∧
    { base with pending := [.read 0x0004] }.pending = [.read 0x0004] := by decide
theorem witness_UnmappedReadsZeroAndStrayWritesAreIgnored :
    ((0x3000 ≤ 0x3000 ∧ 0x3000 ≤ 0x3FFF) ∨ (0x6000 ≤ 0x3000 ∧ 0x3000 ≤ 0xFFFF)) ∧
    ((0x3000 ≤ 0xFFFC ∧ 0xFFFC ≤ 0x3FFF) ∨ (0x6000 ≤ 0xFFFC ∧ 0xFFFC ≤ 0xFFFF)) ∧
    { base with pending := [.write 0x0800 7] }.pending = [.write 0x0800 7] ∧ 0x2000 ≤ 4 * (0x0800 : PortAddr).toNat := by
  decide
theorem witness_BufferWindowsArePackedMsbFirst :
    { base with pending := [.read 0x0800] }.pending = [.read 0x0800] ∧
    4 * (0x0800 : PortAddr).toNat = 0x2000 + 4 * 0 ∧ 4 * (0x0BFF : PortAddr).toNat = 0x2000 + 4 * 1023 ∧
    4 * (0x1000 : PortAddr).toNat = 0x4000 + 4 * 0 ∧ 4 * (0x17FF : PortAddr).toNat = 0x4000 + 4 * 2047 := by decide
theorem witness_InWindowMovesFourBytes :
    { base with pending := [.write 0x0400 7] }.pending = [.write 0x0400 7] ∧
    { base with pending := [.read 0x07FF] }.pending = [.read 0x07FF] ∧
    4 * (0x0400 : PortAddr).toNat = 0x1000 + 0 ∧ 4 * (0x07FF : PortAddr).toNat = 0x1000 + 4092 ∧
    7 < base.params.inBytes ∧ memGet base.input 7 = none := by decide
theorem witness_InWindowReadReturnsTheWrittenWord :
    { base with pending := [.write 0x0401 7, .read 0x0401] }.pending = [.write 0x0401 7, .read 0x0401] ∧
    0x1000 ≤ 4 * (0x0401 : PortAddr).toNat ∧ 4 * (0x0401 : PortAddr).toNat < 0x2000 ∧
    4 * (0x0401 : PortAddr).toNat + 4 ≤ 0x1000 + base.params.inBytes := by decide
theorem witness_ResetValuesAreTheListedOnes : 4095 < State.reset.params.inBytes := by decide
theorem witness_ResetInputRestoresTheResetValues : { errState with pending := [.reset] }.pending = [.reset] ∧
    7 < errState.params.inBytes := by decide
theorem witness_ParametersNeverChange : ∃ t, step { base with pending := [cmdWrite 0xA] } = .next t := ⟨_, rfl⟩
theorem witness_StateChangesOnlyByItsOwnAccess_1 :
    (∃ t, step { base with pending := [.write 0x0003 1] } = .next t ∧ t.imm ≠ base.imm) ∧
    (∃ t, step { base with pending := [.write 0x0004 1] } = .next t ∧ t.inlen ≠ base.inlen) ∧
    (∃ t, step { base with pending := [.write 0x0400 1] } = .next t ∧ t.input ≠ base.input) := by
  refine ⟨⟨_, rfl, ?_⟩, ⟨_, rfl, ?_⟩, ⟨_, rfl, ?_⟩⟩ <;> decide
theorem witness_StateChangesOnlyByItsOwnAccess_2 :
    (∃ t, step { base with pending := [cmdWrite 0x0F] } = .next t ∧ t.w ≠ base.w ∧ t.segs ≠ base.segs) ∧
    (∃ t, step { errState with pending := [.write 0x0001 0x100] } = .next t ∧ t.status ≠ errState.status) ∧
    (∃ t, step { errState with pending := [cmdWrite 0x00] } = .next t ∧ t.status.lerr ≠ errState.status.lerr) := by
  refine ⟨⟨_, rfl, ?_⟩, ⟨_, rfl, ?_⟩, ⟨_, rfl, ?_⟩⟩ <;> decide
theorem witness_StateChangesOnlyByItsOwnAccess_3 : ∀ rest, [cmdWrite 0x0F] ≠ .reset :: rest := by simp [cmdWrite]

/-- A state with every kind of content, for a host access `e`. -/
def full (e : HostEvent) : State :=
  { text [0x31, 0x41] base with
    imm := 16, w := List.replicate 64 true, out := List.replicate 64 false, segs := [seg5, bare .eci 1], pending := [e] }

theorem full_reset_inv : (full .reset).Inv :=
  ⟨by decide, by decide, by decide, by decide, by decide, by decide, by decide⟩
theorem full_inv (e : HostEvent) : (full e).Inv :=
  ⟨full_reset_inv.1, full_reset_inv.2, full_reset_inv.3, full_reset_inv.4, full_reset_inv.5, full_reset_inv.6,
    full_reset_inv.7⟩
theorem base_inv : base.Inv := ⟨by decide, by decide, by decide, by decide, by decide, by decide, by decide⟩
theorem witness_EveryStepKeepsTheInvariant :
    (full (.write 0x0400 5)).Inv ∧ ∃ t, step (full (.write 0x0400 5)) = .next t := ⟨full_inv _, _, rfl⟩
theorem witness_CommandWordEndsInOneOfThreeOutcomes : (full (cmdWrite 0x11)).pending = [.write 0x0005 0x11] := rfl

/-- Each condition of R226, in its order, on a state where no earlier one applies; then one where none applies. -/
theorem witness_FirstApplicableConditionIsReported_1 :
    (full (cmdWrite 0x15)).Inv ∧ (full (cmdWrite 0x15)).pending = [.write 0x0005 0x15] ∧ Illegal 0x15 :=
  ⟨full_inv _, rfl, .reservedOpcode, by decide⟩
theorem witness_FirstApplicableConditionIsReported_2 :
    decode 0x11 = .command (.totalBits 0) ∧ VersionIllegal (.totalBits 0) := ⟨by decide, by simp [VersionIllegal]⟩
theorem witness_FirstApplicableConditionIsReported_3 :
    decode 0x00400007 = .command (.segMode 2) ∧ ¬VersionIllegal (.segMode 2) ∧
    SlotMissing (full (cmdWrite 0x00400007)) (.segMode 2) := ⟨by decide, id, by simp only [SlotMissing]; decide⟩
theorem witness_FirstApplicableConditionIsReported_4 :
    decode 0x102 = .command (.bbAppend 4) ∧ ¬VersionIllegal (.bbAppend 4) ∧
    ¬SlotMissing (full (cmdWrite 0x102)) (.bbAppend 4) ∧ ArgumentInvalid (full (cmdWrite 0x102)) (.bbAppend 4) :=
  ⟨by decide, id, id, by simp only [ArgumentInvalid]; decide⟩
theorem witness_FirstApplicableConditionIsReported_5 :
    decode 0x8014 = .command (.serialize 1) ∧ ¬VersionIllegal (.serialize 1) ∧
    ¬SlotMissing (full (cmdWrite 0x8014)) (.serialize 1) ∧ ¬ArgumentInvalid (full (cmdWrite 0x8014)) (.serialize 1) ∧
    CapacityMissed (full (cmdWrite 0x8014)) (.serialize 1) :=
  ⟨by decide, by simp [VersionIllegal], id, id, by simp only [CapacityMissed, Fits]; decide⟩
theorem witness_FirstApplicableConditionIsReported_6 :
    decode 0x806 = .command (.segMake .numeric) ∧ ¬VersionIllegal (.segMake .numeric) ∧
    ¬SlotMissing (full (cmdWrite 0x806)) (.segMake .numeric) ∧
    ¬ArgumentInvalid (full (cmdWrite 0x806)) (.segMake .numeric) ∧
    ¬CapacityMissed (full (cmdWrite 0x806)) (.segMake .numeric) ∧ ListIsFull (full (cmdWrite 0x806)) (.segMake .numeric) :=
  ⟨by decide, id, id, by simp only [ArgumentInvalid]; decide, id, by simp only [ListIsFull]; decide⟩
theorem witness_FirstApplicableConditionIsReported_7 :
    decode 0x142 = .command (.bbAppend 5) ∧ ¬VersionIllegal (.bbAppend 5) ∧
    ¬SlotMissing (full (cmdWrite 0x142)) (.bbAppend 5) ∧ ¬ArgumentInvalid (full (cmdWrite 0x142)) (.bbAppend 5) ∧
    ¬CapacityMissed (full (cmdWrite 0x142)) (.bbAppend 5) ∧ ¬ListIsFull (full (cmdWrite 0x142)) (.bbAppend 5) ∧
    BufferIsFull (full (cmdWrite 0x142)) (.bbAppend 5) :=
  ⟨by decide, id, id, by simp only [ArgumentInvalid]; decide, id, id, by simp only [BufferIsFull]; decide⟩
theorem witness_FirstApplicableConditionIsReported_8 :
    decode 0x0E = .command .segBytes ∧ base.Inv ∧ ¬VersionIllegal .segBytes ∧ ¬SlotMissing base .segBytes ∧
    ¬ArgumentInvalid base .segBytes ∧ ¬CapacityMissed base .segBytes ∧ ¬ListIsFull base .segBytes ∧
    ¬BufferIsFull base .segBytes :=
  ⟨by decide, base_inv, id, id, id, id, by simp only [ListIsFull]; decide, id⟩

theorem witness_EachCommandReportsOnlyItsOutcomes :
    (full (cmdWrite 0)).Inv ∧ (∃ t, exec (.totalBits 1) (full (cmdWrite 0)) = .next t ∧ t.status.capx = true) ∧
    (∃ t, exec .segNum (full (cmdWrite 0)) = .next t ∧ t.status.lerr = .invalidArgument) :=
  ⟨full_inv _, ⟨_, rfl, by decide⟩, ⟨_, rfl, by decide⟩⟩
theorem witness_SegmentListGrowsAtItsEndOrIsCleared :
    (∃ t, exec .listClear (full (cmdWrite 0)) = .next t) ∧ (∃ t, exec .segEci base = .next t) := ⟨⟨_, rfl⟩, ⟨_, rfl⟩⟩
theorem witness_SegmentsStayUnchangedOverARun :
    [seg5][0]? = some seg5 ∧
    (∀ e ∈ [cmdWrite 0x01, cmdWrite 0x0F], e ≠ HostEvent.reset ∧ e ≠ .write 0x0005 0x0000000A) ∧
    ∃ t, Host.Core.run Sys2Proof.core 2 { base with segs := [seg5], pending := [cmdWrite 0x01, cmdWrite 0x0F] } = .next t :=
  ⟨rfl, by decide, _, rfl⟩
theorem witness_SegDataReturnsWhatSegMakeStored :
    0 ≤ base.imm.toInt ∧ base.segs.length ≠ base.params.nSeg ∧
    ∃ t u, exec (.segMake .kanji) base = .next t ∧ exec .bbClear t = .next u :=
  ⟨by decide, by decide, _, _, rfl, rfl⟩
theorem witness_CommandsReadInputOnlyBelowInlen :
    (∀ o, o < (text [0x31] base).inlen.toNat →
      inByte { text [0x31] base with input := [(0, 0x31), (1, 0x41)], inEpoch := 0 } o = inByte (text [0x31] base) o) ∧
    ∃ t, exec .segNum (text [0x31] base) = .next t := ⟨by decide, _, rfl⟩
theorem witness_BitsofIsMostSignificantFirst : 31 ≤ 31 ∧ 2147483647 < 2 ^ 31 ∧ 30 < 31 := by decide
theorem witness_CharacterSetsAreTheListedOnes : isDigit 0x30 = true ∧ isDigit 0x39 = true ∧
    alnumList[0]? = some 0x30 ∧ alnumList[44]? = some 0x3A := by decide
theorem witness_CountFieldWidthsMeetTheConstraints : paramsValid defaultParams = true ∧ 9 ≤ 9 := by decide

/-- Words that meet each clause of PlainWords, WidthWords, ModeWords, ModeVersionWords, SlotWords and VersionWords, in
that order; test_dec_… has a word for every opcode. -/
theorem witness_Words :
    ((0x00000000#32).toNat % 64 = 0 ∧ (0x00000000#32).toNat = 0) ∧ ((0x80000001#32).toNat % 64 = 1 ∧ (0x80000001#32).toNat ≠ 1) ∧
    ((0x000007C2#32).toNat / 2 ^ 11 = 0 ∧ (0x00000802#32).toNat / 2 ^ 11 ≠ 0) ∧
    ((0x00003804#32).toNat / 2 ^ 6 % 32 = 0 ∧ (0x00003804#32).toNat / 2 ^ 15 = 0 ∧
      (0x00003804#32).toNat / 2 ^ 11 % 16 = modeIndicator .eci ∧ (0x00001804#32).toNat / 2 ^ 11 % 16 ∉ [1, 2, 4, 7, 8]) ∧
    ((0x001FC005#32).toNat / 2 ^ 21 = 0 ∧ (0x001FC005#32).toNat / 2 ^ 15 % 64 = 63) ∧
    ((0x07E00007#32).toNat / 2 ^ 6 % 2 ^ 15 = 0 ∧ (0x07E00007#32).toNat / 2 ^ 27 = 0) ∧
    ((0x001F8011#32).toNat / 2 ^ 6 % 2 ^ 9 = 0 ∧ (0x001F8011#32).toNat / 2 ^ 21 = 0) := by decide

theorem witness_LengthCommandsReturnTheLength : (full .reset).Inv ∧
    (∃ t, exec .bbLen (full .reset) = .next t) ∧ (∃ t, exec .listLen (full .reset) = .next t) ∧
    (∃ t, exec .outLen (full .reset) = .next t) := ⟨full_inv _, ⟨_, rfl⟩, ⟨_, rfl⟩, ⟨_, rfl⟩⟩
theorem witness_BbAppendAppendsTheValueOrFails :
    (2 ^ 4 ≤ { base with imm := 16 }.imm.toInt ∧ { base with imm := 0x80000000 }.imm.toInt < 0) ∧
    (0 ≤ (full .reset).imm.toInt ∧ (full .reset).imm.toInt < 2 ^ 5 ∧
      (full .reset).params.wBits < (full .reset).w.length + 5) ∧
    (0 ≤ base.imm.toInt ∧ base.imm.toInt < 2 ^ 0 ∧ base.w.length + 0 ≤ base.params.wBits) := by decide
theorem witness_CcwReturnsTheFieldWidth : (0 < 1 ∨ 40 < 0) ∧ (41 < 1 ∨ 40 < 41) ∧ (1 ≤ 1 ∧ 9 ≤ 9) ∧
    (10 ≤ 10 ∧ 26 ≤ 26) ∧ (27 ≤ 27 ∧ 40 ≤ 40) := by decide
theorem witness_SegMakeAppendsTheSegment :
    { base with imm := 0xFFFFFFFF }.imm.toInt < 0 ∧
    (0 ≤ (full .reset).imm.toInt ∧ (full .reset).segs.length = (full .reset).params.nSeg) ∧
    (0 ≤ { base with imm := 0x7FFFFFFF }.imm.toInt ∧ base.segs.length ≠ base.params.nSeg) := by decide
theorem witness_GettersReadTheirSlotOrFail : (full .reset).segs.length ≤ 2 ∧ (full .reset).segs[1]? = some (bare .eci 1) := by
  decide

theorem digits_text : AllDigits (text [0x30, 0x39] base) := by unfold AllDigits; decide
theorem not_digits : ¬AllDigits (text [0x31, 0x2F] base) := by unfold AllDigits; decide
theorem alnum_text : AllAlnum (text [0x2F, 0x3A, 0x5A] base) := by unfold AllAlnum; decide
theorem not_digits_text : ¬AllDigits (text [0x2F, 0x3A, 0x5A] base) := by unfold AllDigits; decide
theorem not_alnum : ¬AllAlnum (text [0x5A, 0x5B] base) := by unfold AllAlnum; decide
theorem not_alnum_digits : ¬AllDigits (text [0x5A, 0x5B] base) := by unfold AllDigits; decide

theorem witness_SegNumPacksDigits : AllDigits (text [0x30, 0x39] base) ∧ ¬AllDigits (text [0x31, 0x2F] base) ∧
    AllDigits base := ⟨digits_text, not_digits, by unfold AllDigits; decide⟩
theorem witness_SegAlnumPacksPairs : AllAlnum (text [0x2F, 0x3A, 0x5A] base) ∧ ¬AllAlnum (text [0x5A, 0x5B] base) :=
  ⟨alnum_text, not_alnum⟩
/-- The three ways a factory's commit ends (R160); the second needs parameters outside R8. -/
theorem witness_CommitsFactory : (full .reset).segs.length = (full .reset).params.nSeg ∧
    (base.segs.length ≠ base.params.nSeg ∧ (bitsof 0 31).length ≤ base.params.wBits) ∧
    ({ base with params := { small with wBits := 7 } }.segs.length ≠ 2 ∧ (bitsof 0 8).length > 7) := by decide
theorem witness_SegEciMakesTheDesignator :
    { base with imm := 0xFFFFFFFF }.imm.toInt < 0 ∧ 1000000 ≤ { base with imm := 1000000 }.imm.toInt ∧
    (0 ≤ { base with imm := 127 }.imm.toInt ∧ { base with imm := 127 }.imm.toInt < 128) ∧
    (128 ≤ { base with imm := 128 }.imm.toInt ∧ { base with imm := 16383 }.imm.toInt < 16384) ∧
    (16384 ≤ { base with imm := 16384 }.imm.toInt ∧ { base with imm := 999999 }.imm.toInt < 1000000) := by decide
theorem witness_SegAutoChoosesOneMode :
    base.inlen.toNat = 0 ∧ ((text [0x30, 0x39] base).inlen.toNat ≠ 0 ∧ AllDigits (text [0x30, 0x39] base)) ∧
    ((text [0x2F, 0x3A, 0x5A] base).inlen.toNat ≠ 0 ∧ ¬AllDigits (text [0x2F, 0x3A, 0x5A] base) ∧
      AllAlnum (text [0x2F, 0x3A, 0x5A] base)) ∧
    ((text [0x5A, 0x5B] base).inlen.toNat ≠ 0 ∧ ¬AllDigits (text [0x5A, 0x5B] base) ∧
      ¬AllAlnum (text [0x5A, 0x5B] base)) :=
  ⟨rfl, ⟨by decide, digits_text⟩, ⟨by decide, not_digits_text, alnum_text⟩, ⟨by decide, not_alnum_digits, not_alnum⟩⟩
theorem fits_1023 : Fits small 1 [bare .numeric 1023] := by unfold Fits; decide
theorem not_fits_1024 : ¬Fits small 1 [bare .numeric 1024] := by unfold Fits; decide
theorem witness_TotalBitsReturnsTheSumOrOverCapacity : (0 < 1 ∨ 40 < 0) ∧ (1 ≤ 1 ∧ 1 ≤ 40 ∧ ¬Fits small 1 [bare .numeric 1024]) ∧
    (1 ≤ 1 ∧ 1 ≤ 40 ∧ Fits small 1 [bare .numeric 1023]) :=
  ⟨by decide, ⟨by decide, by decide, not_fits_1024⟩, ⟨by decide, by decide, fits_1023⟩⟩
theorem witness_SerializeAppendsTheWireFormatOrNothing : ¬Fits small 40 [bare .eci 1] ∧
    (Fits small 1 [bare .numeric 1023] ∧ small.oBits < (List.replicate 51 true).length + totalLength small 1 [bare .numeric 1023]) ∧
    (Fits small 1 [bare .numeric 1023] ∧
      (List.replicate 50 true).length + totalLength small 1 [bare .numeric 1023] ≤ small.oBits) :=
  ⟨by unfold Fits; decide, ⟨fits_1023, by decide⟩, ⟨fits_1023, by decide⟩⟩
theorem witness_SerializeAppendsAsManyBitsAsTotalBitsReturns :
    ∃ t u, exec (.serialize 1) { base with segs := [segP1] } = .next t ∧ t.status = ok { base with segs := [segP1] } ∧
      exec (.totalBits 1) { base with segs := [segP1] } = .next u := ⟨_, _, rfl, by decide, rfl⟩
theorem witness_EciDesignatorReadsBackItsValue :
    0 ≤ { base with imm := 999999 }.imm.toInt ∧ { base with imm := 999999 }.imm.toInt < 1000000 ∧
    base.segs.length ≠ base.params.nSeg ∧ 24 ≤ base.params.wBits := by decide
theorem witness_PayloadDeterminesTheInput : [0x30#8, 0x37#8].all isDigit = true ∧ [0x5A#8, 0x3A#8].all isAlnum = true ∧
    [0x30#8, 0x37#8].length = [0x30#8, 0x37#8].length := by decide
theorem witness_FrameOfTheReadingCommands : ∃ t, exec (.segCount 1) (full .reset) = .next t := ⟨_, rfl⟩
theorem witness_FrameOfTheWorkingBufferCommands : ∃ t, exec (.segData 1) (full .reset) = .next t := ⟨_, rfl⟩
theorem witness_FrameOfTheSegmentListCommands :
    (∃ t, exec .segBytes (text [0x00, 0xFF] base) = .next t) ∧ (∃ t, exec .listClear (full .reset) = .next t) :=
  ⟨⟨_, rfl⟩, ⟨_, rfl⟩⟩
theorem witness_FrameOfTheOutputBufferCommands : ∃ t, exec (.serialize 1) { base with segs := [segP1] } = .next t := ⟨_, rfl⟩

end Sys2Proof.Tests
end

section
/-! The frame of a command and of a step: a command writes W, OUT, the segment list, RES and STATUS alone, and no step
touches the parameters. -/
namespace Sys2Proof.Machine

/-- The frame of every command (R222 to R224). -/
theorem exec_frame {i : Instr} {s t : State} (h : exec i s = .next t) :
    ∃ w out segs res st, t = ((((s.setW w).setOut out).setSegs segs).setRes res).setStatus st := by
  obtain (⟨e, -, he⟩ | ⟨w, out, segs, res, he⟩) | ⟨-, he⟩ := exec_cases i s <;> rw [he] at h
  · exact ⟨s.w, s.out, s.segs, s.res, _, raise_next h⟩
  · exact ⟨w, out, segs, res, _, done_next h⟩
  · exact ⟨s.w, s.out, s.segs, _, _, capacityExceeded_next h⟩

/-- A word written to CMD is a command, which runs with CMDLAST holding the word, or raises IllegalCommand (R93). -/
theorem issue_cases (c : Word) (s : State) :
    (∃ i, decode c = .command i ∧ issue c s = exec i (s.setCmdlast c)) ∨
      (∃ e, decode c = .illegal e ∧ issue c s = raise .illegalCommand (s.setCmdlast c)) := by
  unfold issue
  cases hd : decode c with
  | command i => exact .inl ⟨i, rfl, rfl⟩
  | illegal e => exact .inr ⟨e, rfl, rfl⟩

theorem issue_params {c : Word} {s t : State} (h : issue c s = .next t) : t.params = s.params := by
  obtain ⟨i, -, he⟩ | ⟨e, -, he⟩ := issue_cases c s <;> rw [he] at h
  · obtain ⟨w, out, segs, res, st, rfl⟩ := exec_frame h
    rfl
  · rw [raise_next h]
    rfl

/-- Settles O22: a CMD write by the frame of a command, every other access by the write it makes. -/
theorem parametersNeverChange : Obligations.ParametersNeverChange := by
  intro s t h
  obtain ⟨-, rfl⟩ | ⟨a, rest, -, rfl⟩ | ⟨rest, -, rfl⟩ | ⟨c, rest, -, hc⟩ | ⟨d, rest, -, rfl⟩ | ⟨d, rest, -, rfl⟩ |
    ⟨d, rest, -, rfl⟩ | ⟨a, d, rest, -, -, -, rfl⟩ | ⟨a, d, rest, -, -, rfl⟩ := step_cases h
  · rfl
  · rfl
  · rfl
  · exact (issue_params hc).trans (State.setPending_params ..)
  · rfl
  · rfl
  · rfl
  · exact inWriteWord_params ..
  · rfl

end Sys2Proof.Machine
end

section
/-! What each write of the state needs to keep the invariant. The fields that `State.Inv` does not speak of need
nothing. -/
namespace Sys2Proof.Machine

variable {s : State}

theorem State.Inv.setStatus (h : s.Inv) (v : Status) : (s.setStatus v).Inv := { h with }
theorem State.Inv.setRes (h : s.Inv) (v : Word) : (s.setRes v).Inv := { h with }
theorem State.Inv.setImm (h : s.Inv) (v : Word) : (s.setImm v).Inv := { h with }
theorem State.Inv.setCmdlast (h : s.Inv) (v : Word) : (s.setCmdlast v).Inv := { h with }
theorem State.Inv.setPending (h : s.Inv) (v : List HostEvent) : (s.setPending v).Inv := { h with }
theorem State.Inv.setRdata (h : s.Inv) (v : Word) : (s.setRdata v).Inv := { h with }

theorem State.Inv.setW (h : s.Inv) {b : Bits} (hb : b.length ≤ s.params.wBits) : (s.setW b).Inv := { h with w := hb }

theorem State.Inv.setOut (h : s.Inv) {b : Bits} (hb : b.length ≤ s.params.oBits) : (s.setOut b).Inv :=
  { h with out := hb }

theorem State.Inv.clearSegs (h : s.Inv) : (s.setSegs []).Inv := { h with segcnt := Nat.zero_le _, segs := rfl }

/-- R8: IN has at most 4096 bytes. -/
theorem inBytes_le_of_paramsValid {p : Config.Params} (h : paramsValid p = true) : p.inBytes ≤ 4096 := by
  simp only [paramsValid, Bool.and_eq_true, decide_eq_true_eq] at h
  omega

theorem State.Inv.inlen_lt (h : s.Inv) : s.inlen.toNat < 2 ^ 31 := by
  have hin := h.inlen
  have hmax := inBytes_le_of_paramsValid h.params
  omega

/-- R36: the clamp loses nothing to the 32 bits of INLEN. -/
theorem State.Inv.setInlen_clamp (h : s.Inv) (d : Word) : (s.setInlen (clampInlen s d)).Inv := by
  refine { h with inlen := ?_ }
  have hmax := inBytes_le_of_paramsValid h.params
  simp only [setInlen_inlen, setInlen_params, clampInlen, BitVec.toNat_ofNat]
  omega

@[simp] theorem addseg_params (m : Mode) (n : Nat) (b : Bits) (s : State) : (addseg m n b s).params = s.params := rfl

/-- Room for a segment (R160): a list within NSEG and not of that length is below it. -/
theorem State.Inv.addseg (h : s.Inv) (m : Mode) {n : Nat} {b : Bits} (hroom : s.segcnt ≠ s.params.nSeg)
    (hn : n < 2 ^ 31) (hb : b.length ≤ s.params.wBits) : (addseg m n b s).Inv := by
  have hseg : segmentOk s.params { mode := m, count := n, data := b } = true :=
    Bool.and_eq_true_iff.2 ⟨decide_eq_true hn, decide_eq_true hb⟩
  refine { h with segcnt := ?_, segs := ?_ }
  · have hle := h.segcnt
    rw [addseg_segcnt]
    exact Nat.lt_of_le_of_ne hle hroom
  · rw [addseg_segs, addseg_params, List.all_append, Bool.and_eq_true]
    exact ⟨h.segs, by simpa using hseg⟩

/-- R43: a slot's data fits in W. -/
theorem State.Inv.slot_length (h : s.Inv) {sl : Nat} {seg : Segment} (hs : s.segs[sl]? = some seg) :
    seg.data.length ≤ s.params.wBits := by
  have hok := List.all_eq_true.1 h.segs seg (List.mem_of_getElem? hs)
  simp only [segmentOk, Bool.and_eq_true, decide_eq_true_eq] at hok
  exact hok.2

theorem State.Inv.inWriteByte (h : s.Inv) (o : Nat) (b : Byte) : (inWriteByte o b s).Inv := by
  obtain ⟨ho, he⟩ | ⟨-, he⟩ := inWriteByte_cases o b s <;> rw [he]
  · obtain ⟨hwf, hall⟩ := Bool.and_eq_true_iff.1 h.input
    exact { h with input := Bool.and_eq_true_iff.2 ⟨memSet_wf _ _ _ hwf, memSet_all _ _ _ _ ho hall⟩ }
  · exact h

theorem State.Inv.inWriteWord (h : s.Inv) (o : Nat) (d : Word) : (inWriteWord o d s).Inv :=
  (((h.inWriteByte _ _).inWriteByte _ _).inWriteByte _ _).inWriteByte _ _

/-- Everything that reset empties is within any capacity (R49). -/
theorem State.Inv.afterReset (h : s.Inv) : (afterReset s).Inv where
  params := h.params
  inlen := Nat.zero_le _
  w := Nat.zero_le _
  out := Nat.zero_le _
  segcnt := Nat.zero_le _
  segs := rfl
  input := rfl

end Sys2Proof.Machine
end

section
/-! The invariant through the outcomes of a command. -/
namespace Sys2Proof.Machine

variable {s : State}

/-- The outcome's next state, where it has one, meets the invariant. -/
def InvAfter (o : Host.Outcome State Fault Refusal) : Prop := ∀ t, o = .next t → t.Inv

theorem State.Inv.done (h : s.Inv) : InvAfter (done s) := fun t ht => by
  rw [done_next ht]
  exact h.setStatus _

theorem State.Inv.raise (h : s.Inv) (e : LErr) : InvAfter (raise e s) := fun t ht => by
  rw [raise_next ht]
  exact h.setStatus _

theorem State.Inv.capacityExceeded (h : s.Inv) : InvAfter (capacityExceeded s) := fun t ht => by
  rw [capacityExceeded_next ht]
  exact (h.setRes _).setStatus _

theorem State.Inv.doneRes (h : s.Inv) (v : Word) : InvAfter (Machine.done (s.setRes v)) := (h.setRes v).done

theorem State.Inv.withSlot (h : s.Inv) (sl : Nat) {f : Segment → State}
    (hf : ∀ seg, s.segs[sl]? = some seg → (f seg).Inv) : InvAfter (withSlot sl s f) := by
  obtain ⟨-, he⟩ | ⟨seg, hs, he⟩ := withSlot_cases sl s f <;> rw [he]
  · exact h.raise _
  · exact (hf seg hs).done

theorem State.Inv.factoryCommit (h : s.Inv) (m : Mode) {n : Nat} (hn : n < 2 ^ 31) (b : Bits) :
    InvAfter (factoryCommit m n b s) := by
  obtain ⟨-, he⟩ | ⟨-, he⟩ | ⟨hroom, hb, he⟩ := factoryCommit_cases m n b s <;> rw [he]
  · exact h.raise _
  · exact h.raise _
  · exact ((h.setW hb).addseg m hroom hn hb).doneRes _

theorem State.Inv.numericBody (h : s.Inv) : InvAfter (numericBody s) := by
  unfold Machine.numericBody
  split
  · exact h.factoryCommit _ h.inlen_lt _
  · exact h.raise _

theorem State.Inv.alnumBody (h : s.Inv) : InvAfter (alnumBody s) := by
  unfold Machine.alnumBody
  split
  · exact h.factoryCommit _ h.inlen_lt _
  · exact h.raise _

theorem State.Inv.bytesBody (h : s.Inv) : InvAfter (bytesBody s) := h.factoryCommit _ h.inlen_lt _

theorem State.Inv.execBbAppend (h : s.Inv) (wd : Nat) : InvAfter (execBbAppend wd s) := by
  unfold Machine.execBbAppend
  split
  · exact h.raise _
  · split
    · exact h.raise _
    · next hfit => exact (h.setW (by rw [append_length]; omega)).done

theorem State.Inv.execCcw (h : s.Inv) (md : Mode) (vr : Nat) : InvAfter (execCcw md vr s) := by
  unfold Machine.execCcw
  split
  · exact h.doneRes _
  · exact h.raise _

/-- R140: the count is a nonnegative signed 32-bit number, so below 2^31. -/
theorem State.Inv.execSegMake (h : s.Inv) (md : Mode) : InvAfter (execSegMake md s) := by
  unfold Machine.execSegMake
  split
  · exact h.raise _
  · split
    · exact h.raise _
    · next hroom =>
      have hcount : (immOperand s).toNat < 2 ^ 31 := by
        have hlt := BitVec.toInt_lt (x := s.imm)
        simp only [immOperand, sint32]
        omega
      exact (h.addseg md hroom hcount h.w).doneRes _

theorem State.Inv.execSegData (h : s.Inv) (sl : Nat) : InvAfter (execSegData sl s) :=
  h.withSlot sl fun _ hs => (h.setW (h.slot_length hs)).setRes _

theorem State.Inv.execSegEci (h : s.Inv) : InvAfter (execSegEci s) := by
  unfold Machine.execSegEci
  split
  · exact h.raise _
  · exact h.factoryCommit _ (by decide) _

theorem State.Inv.execSegAuto (h : s.Inv) : InvAfter (execSegAuto s) := by
  unfold Machine.execSegAuto
  split
  · exact (h.setW (Nat.zero_le _)).doneRes _
  · split
    · exact h.numericBody
    · split
      · exact h.alnumBody
      · exact h.bytesBody

theorem State.Inv.execTotalBits (h : s.Inv) (vr : Nat) : InvAfter (execTotalBits vr s) := by
  unfold Machine.execTotalBits
  split
  · split
    · exact h.capacityExceeded
    · exact h.doneRes _
  · exact h.raise _

/-- R191, R195: where the total exists, it is the length of what the serializer writes. -/
theorem wireAll_length_of_totalBitsFrom {p : Config.Params} {ver : Nat} :
    ∀ {segs : List Segment} {acc r : Nat}, totalBitsFrom p ver acc segs = some r →
      acc + (wireAll p ver segs).length = r
  | [], _, _, h => Option.some.inj h
  | seg :: rest, acc, r, h => by
    simp only [totalBitsFrom] at h
    split at h
    · cases h
    · split at h
      · cases h
      · have ih := wireAll_length_of_totalBitsFrom h
        rw [wireAll_cons, List.length_append, wire_length]
        omega

theorem wireAll_length_of_totalBitsOf {vr r : Nat} (h : totalBitsOf s vr = some r) :
    (wireAll s.params vr s.segs).length = r := by
  simpa using wireAll_length_of_totalBitsFrom h

/-- R194: the room check is on the total, which is the length of the bits written. -/
theorem State.Inv.execSerialize (h : s.Inv) (vr : Nat) : InvAfter (execSerialize vr s) := by
  unfold Machine.execSerialize
  split
  · split
    · exact h.capacityExceeded
    · next r hr =>
      split
      · exact h.raise _
      · next hfit =>
        have hlen := wireAll_length_of_totalBitsOf hr
        exact (h.setOut (by rw [List.length_append]; omega)).doneRes _
  · exact h.raise _

/-- Every command keeps the invariant. -/
theorem State.Inv.exec (h : s.Inv) (i : Instr) : InvAfter (exec i s) := by
  cases i with
  | nop => exact h.done
  | bbClear => exact (h.setW (Nat.zero_le _)).done
  | bbAppend wd => exact h.execBbAppend wd
  | bbLen => exact h.doneRes _
  | modeInd md => exact h.doneRes _
  | ccw md vr => exact h.execCcw md vr
  | segMake md => exact h.execSegMake md
  | segMode sl => exact h.withSlot sl fun _ _ => h.setRes _
  | segCount sl => exact h.withSlot sl fun _ _ => h.setRes _
  | segData sl => exact h.execSegData sl
  | listClear => exact h.clearSegs.done
  | listLen => exact h.doneRes _
  | segNum => exact h.numericBody
  | segAlnum => exact h.alnumBody
  | segBytes => exact h.bytesBody
  | segEci => exact h.execSegEci
  | segAuto => exact h.execSegAuto
  | totalBits vr => exact h.execTotalBits vr
  | outClear => exact (h.setOut (Nat.zero_le _)).done
  | outLen => exact h.doneRes _
  | serialize vr => exact h.execSerialize vr

theorem State.Inv.issue (h : s.Inv) (c : Word) : InvAfter (issue c s) := by
  obtain ⟨i, -, he⟩ | ⟨e, -, he⟩ := issue_cases c s <;> rw [he]
  · exact (h.setCmdlast c).exec i
  · exact (h.setCmdlast c).raise _

end Sys2Proof.Machine
end

section
/-! The invariant holds at reset and every step keeps it. -/
namespace Sys2Proof.Machine

/-- Settles O25: each of the host's accesses by the rule of the write it makes, a CMD write by the rule of its
command. -/
theorem everyStepKeepsTheInvariant : Obligations.EveryStepKeepsTheInvariant := by
  intro s t h hstep
  have hp := h.setPending
  obtain ⟨-, rfl⟩ | ⟨a, rest, -, rfl⟩ | ⟨rest, -, rfl⟩ | ⟨c, rest, -, hc⟩ | ⟨d, rest, -, rfl⟩ | ⟨d, rest, -, rfl⟩ |
    ⟨d, rest, -, rfl⟩ | ⟨a, d, rest, -, -, -, rfl⟩ | ⟨a, d, rest, -, -, rfl⟩ := step_cases hstep
  · exact h
  · exact (hp rest).setRdata _
  · exact (hp rest).afterReset
  · exact (hp rest).issue c t hc
  · exact (hp rest).setStatus _
  · exact (hp rest).setImm _
  · exact (hp rest).setInlen_clamp d
  · exact (hp rest).inWriteWord _ d
  · exact hp rest

/-- R8: the default parameters meet the constraints. -/
theorem defaultParams_valid : paramsValid defaultParams = true := by decide

/-- Settles O24: the default parameters are legal, and everything else in the reset state is empty or 0. -/
theorem resetStateMeetsTheInvariant : Obligations.ResetStateMeetsTheInvariant where
  params := defaultParams_valid
  inlen := Nat.zero_le _
  w := Nat.zero_le _
  out := Nat.zero_le _
  segcnt := Nat.zero_le _
  segs := rfl
  input := rfl

end Sys2Proof.Machine
end

section
/-! Values: the bits of a number (R12), and the character sets (R16). -/
namespace Sys2Proof.Machine

theorem bitsof_getElem? (v : Nat) {n k : Nat} (hk : k < n) : (bitsof v n)[k]? = some (v.testBit (n - 1 - k)) := by
  induction n generalizing k with
  | zero => exact absurd hk (Nat.not_lt_zero k)
  | succ n ih =>
    cases k with
    | zero => rfl
    | succ k =>
      rw [bitsof, List.getElem?_cons_succ, ih (Nat.lt_of_succ_lt_succ hk)]
      congr 2
      omega

/-- Reading on from an accumulator: it moves up by the bits read, and they are v's low ones. -/
theorem foldl_bitsof (v n acc : Nat) :
    (bitsof v n).foldl (fun acc x => 2 * acc + x.toNat) acc = acc * 2 ^ n + v % 2 ^ n := by
  induction n generalizing acc with
  | zero => simp [bitsof, Nat.mod_one]
  | succ n ih =>
    rw [bitsof, List.foldl_cons, ih, Nat.toNat_testBit, Nat.mod_pow_succ]
    ring

/-- The bits read back as the number that they hold. -/
theorem natOfBits_bitsof (v n : Nat) : natOfBits (bitsof v n) = v % 2 ^ n := by
  simpa [natOfBits] using foldl_bitsof v n 0

/-- Settles O34: bit k by induction on n, and the number read back as v mod 2^n. -/
theorem bitsofIsMostSignificantFirst : Obligations.BitsofIsMostSignificantFirst := by
  intro v n _ hv
  refine ⟨bitsof_length v n, fun k hk => bitsof_getElem? v hk, ?_⟩
  rw [natOfBits_bitsof, Nat.mod_eq_of_lt hv]

/-- The ASCII codes of the 45 symbols: the digits, the capitals, the last nine (R16). -/
def alnumCodes : List Nat := List.range' 0x30 10 ++ (List.range' 0x41 26 ++ alnumSymbols)

theorem alnumList_eq_map_codes : Spec.alnumList = alnumCodes.map (BitVec.ofNat 8) := by decide

/-- Each of `alnumPos`'s three ranges of positions is the place of its part in the list. -/
theorem alnumCodes_getElem?_of_alnumPos {b : Byte} {k : Nat} (h : alnumPos b = some k) :
    alnumCodes[k]? = some b.toNat := by
  unfold alnumPos at h
  split at h
  · next hd =>
    simp only [isDigit, Bool.and_eq_true, decide_eq_true_eq] at hd
    simp only [digit, Option.some.injEq] at h
    rw [alnumCodes, List.getElem?_append_left (by rw [List.length_range']; omega), List.getElem?_range' (by omega)]
    congr 1
    omega
  · split at h
    · next hc =>
      rw [Option.some.injEq] at h
      rw [alnumCodes, List.getElem?_append_right (by rw [List.length_range']; omega), List.length_range',
        List.getElem?_append_left (by rw [List.length_range']; omega), List.getElem?_range' (by omega)]
      congr 1
      omega
    · obtain ⟨j, hj, rfl⟩ := Option.map_eq_some_iff.1 h
      obtain ⟨hlt, hb, -⟩ := List.idxOf?_eq_some_iff.1 hj
      rw [alnumCodes, ← List.append_assoc, List.getElem?_append_right (Nat.le_add_right 36 j)]
      exact List.getElem?_eq_some_iff.2 ⟨by simpa using hlt, by simpa using hb⟩

theorem alnumPos_getElem : ∀ k : Fin Spec.alnumList.length, alnumPos Spec.alnumList[k] = some k.val := by decide

/-- R16: a byte has position k exactly where the written list has it at k. -/
theorem alnumPos_eq_some_iff (b : Byte) (k : Nat) : alnumPos b = some k ↔ Spec.alnumList[k]? = some b := by
  constructor
  · intro h
    rw [alnumList_eq_map_codes, List.getElem?_map, alnumCodes_getElem?_of_alnumPos h, Option.map_some,
      BitVec.ofNat_toNat, BitVec.setWidth_eq]
  · intro h
    obtain ⟨hk, rfl⟩ := List.getElem?_eq_some_iff.1 h
    exact alnumPos_getElem ⟨k, hk⟩

theorem isAlnum_iff_mem (b : Byte) : isAlnum b = true ↔ b ∈ Spec.alnumList := by
  simp only [isAlnum, Option.isSome_iff_exists, alnumPos_eq_some_iff, List.mem_iff_getElem?]

theorem alnumIndex_of_getElem? {k : Nat} {b : Byte} (h : Spec.alnumList[k]? = some b) : alnumIndex b = k := by
  rw [alnumIndex, (alnumPos_eq_some_iff b k).2 h, Option.getD_some]

/-- Settles O35: the digits by their definition, the symbols by their places in the list. -/
theorem characterSetsAreTheListedOnes : Obligations.CharacterSetsAreTheListedOnes :=
  ⟨fun b => by simp [isDigit], fun _ _ => rfl, by decide, isAlnum_iff_mem, fun _ _ => alnumIndex_of_getElem?⟩

end Sys2Proof.Machine
end

section
/-! STATUS, field by field, and the reads of the port that the statements on STATUS, INLEN and CMD need. -/
namespace Sys2Proof.Machine

/-- R37: the fields of STATUS side by side, from bit 31 down to bit 0. -/
theorem statusWord_eq_append (st : Status) :
    statusWord st =
      0#23 ++ (BitVec.ofBool st.errs ++ (0#3 ++ (BitVec.ofBool st.capx ++ BitVec.ofNat 4 (lerrCode st.lerr)))) := by
  obtain ⟨lerr, capx, errs⟩ := st
  cases lerr <;> cases capx <;> cases errs <;> rfl

theorem statusWord_getLsbD_capx (st : Status) : (statusWord st).getLsbD 4 = st.capx := by
  simp only [statusWord_eq_append, BitVec.getLsbD_append, BitVec.getLsbD_ofBool]
  simp

theorem statusWord_getLsbD_errs (st : Status) : (statusWord st).getLsbD 8 = st.errs := by
  simp only [statusWord_eq_append, BitVec.getLsbD_append, BitVec.getLsbD_ofBool]
  simp

/-- Bits 7:5 and 31:9 stand in the two zero fields (R37). -/
theorem statusWord_getLsbD_reserved (st : Status) {k : Nat} (hk : (5 ≤ k ∧ k ≤ 7) ∨ 9 ≤ k) :
    (statusWord st).getLsbD k = false := by
  simp only [statusWord_eq_append, BitVec.getLsbD_append, BitVec.getLsbD_zero]
  obtain hgap | htop := hk
  · rw [if_pos (by omega), if_pos (by omega), if_neg (by omega)]
  · rw [if_neg (by omega)]

theorem lerrCode_le (e : LErr) : lerrCode e ≤ 6 := by cases e <;> decide

/-- R37: LERR is the number in the low four bits; CAPX and ERRS stand above them. -/
theorem statusWord_mod (st : Status) : (statusWord st).toNat % 16 = lerrCode st.lerr := by
  have hcode := lerrCode_le st.lerr
  rw [statusWord, BitVec.toNat_ofNat]
  omega

/-- Settles O12: a bit of STATUS is a bit of the field that stands at its place. -/
theorem statusWordPlacesItsFields : Obligations.StatusWordPlacesItsFields :=
  ⟨⟨rfl, rfl, rfl, rfl, rfl, rfl, rfl⟩, fun st => ⟨statusWord_mod st, statusWord_getLsbD_capx st,
    statusWord_getLsbD_errs st, fun _ => statusWord_getLsbD_reserved st⟩⟩

/-- R36: INLEN takes the smaller of the value and IN_BYTES, which fits its 32 bits. -/
theorem clampInlen_toNat {s : State} (h : paramsValid s.params = true) (d : Word) :
    (clampInlen s d).toNat = min d.toNat s.params.inBytes := by
  have hmax := inBytes_le_of_paramsValid h
  rw [clampInlen, BitVec.toNat_ofNat]
  omega

/-- A byte that IN has and the host has not written is a free value (R49, R71). -/
theorem inByte_of_unwritten {s : State} {o : Nat} (ho : o < s.params.inBytes) (h : memGet s.input o = none) :
    inByte s o = Config.inUnwritten s.inEpoch o := by
  rw [inByte, if_pos ho, h, Option.getD_none]

/-- Settles O20: every register by computation, and every byte of IN because reset leaves none written. -/
theorem resetValuesAreTheListedOnes : Obligations.ResetValuesAreTheListedOnes :=
  ⟨rfl, rfl, rfl, rfl, rfl, rfl, rfl, rfl, rfl, rfl, fun _ ho => inByte_of_unwritten ho rfl⟩

end Sys2Proof.Machine
end

section
/-! A step of the port: what a read and a write of INLEN do, and what a CMD write leaves. -/
namespace Sys2Proof.Machine

variable {s t : State} {c d : Word} {rest : List HostEvent}

/-- R69: a read puts the word of its address on the port. -/
theorem step_read {a : PortAddr} (h : s.pending = .read a :: rest) :
    step s = .next ((s.setPending rest).setRdata (portRead (s.setPending rest) (byteAddr a))) := step_event h

theorem step_writeInlen (h : s.pending = .write 0x0004 d :: rest) :
    step s = .next ((s.setPending rest).setInlen (clampInlen s d)) := step_event h

/-- R230: every command answers a next state. -/
theorem exec_answers (i : Instr) (s : State) : ∃ t, exec i s = .next t := by
  obtain (⟨e, -, he⟩ | ⟨w, out, segs, res, he⟩) | ⟨-, he⟩ := exec_cases i s <;> exact ⟨_, he⟩

theorem issue_answers (c : Word) (s : State) : ∃ t, issue c s = .next t := by
  obtain ⟨i, -, he⟩ | ⟨e, -, he⟩ := issue_cases c s <;> rw [he]
  · exact exec_answers i _
  · exact ⟨_, rfl⟩

/-- The frame of a CMD write: the frame of a command, with CMDLAST holding the word (R38, R93). -/
theorem issue_frame (h : issue c s = .next t) :
    ∃ w out segs res st,
      t = (((((s.setCmdlast c).setW w).setOut out).setSegs segs).setRes res).setStatus st := by
  obtain ⟨i, -, he⟩ | ⟨e, -, he⟩ := issue_cases c s <;> rw [he] at h
  · exact exec_frame h
  · exact ⟨s.w, s.out, s.segs, s.res, _, raise_next h⟩

/-- R222 to R224: an error sets ERRS, the other two outcomes leave it. -/
theorem exec_keeps_errs_set {i : Instr} (h : exec i s = .next t) (hs : s.status.errs = true) :
    t.status.errs = true := by
  obtain (⟨e, -, he⟩ | ⟨w, out, segs, res, he⟩) | ⟨-, he⟩ := exec_cases i s <;> rw [he] at h
  · rw [raise_next h]
    rfl
  · rw [done_next h]
    exact hs
  · rw [capacityExceeded_next h]
    exact hs

theorem issue_keeps_errs_set (h : issue c s = .next t) (hs : s.status.errs = true) : t.status.errs = true := by
  obtain ⟨i, -, he⟩ | ⟨e, -, he⟩ := issue_cases c s <;> rw [he] at h
  · exact exec_keeps_errs_set h hs
  · rw [raise_next h]
    rfl

/-- R213: with bit 8 = 0 a write to STATUS leaves ERRS. -/
theorem bit8_of_statusHostWrite_clears {st : Status} (hst : st.errs = true)
    (h : (statusHostWrite st d).errs = false) : d.getLsbD 8 = true := by
  simpa [statusHostWrite, hst] using h

/-- Settles O10. -/
theorem idleBlockKeepsItsState : Obligations.IdleBlockKeepsItsState := fun _ => step_idle

/-- Settles O8: the write by the frame of a CMD write, the read by the port's word at CMD. -/
theorem cmdlastHoldsTheLatestCommandWord : Obligations.CmdlastHoldsTheLatestCommandWord := by
  refine ⟨fun s c rest hp => ?_, fun s rest hp => step_read hp⟩
  obtain ⟨t, ht⟩ := issue_answers c (s.setPending rest)
  obtain ⟨w, out, segs, res, st, rfl⟩ := issue_frame ht
  exact ⟨_, (step_cmd hp).trans ht, rfl, rfl⟩

/-- Settles O15: the write stores the clamped value, and the port's word at INLEN is INLEN. -/
theorem inlenWriteIsClamped : Obligations.InlenWriteIsClamped := by
  refine ⟨fun s d rest hparams hp => ⟨_, step_writeInlen hp, rfl, ?_⟩, fun s rest hp => step_read hp⟩
  rw [State.setInlen_inlen, clampInlen_toNat hparams]
  exact ⟨rfl, Nat.min_le_right _ _⟩

/-- Settles O14: no access but a write to STATUS and reset takes a set ERRS away, and that write needs bit 8. -/
theorem errsFallsOnlyByHostWriteOrReset : Obligations.ErrsFallsOnlyByHostWriteOrReset := by
  intro s t h hs ht
  have kept {u : State} (hu : u.status = s.status) : u.status.errs ≠ false := by simp [hu, hs]
  obtain ⟨-, rfl⟩ | ⟨a, rest, -, rfl⟩ | ⟨rest, hp, rfl⟩ | ⟨c, rest, -, hc⟩ | ⟨d, rest, hp, rfl⟩ | ⟨d, rest, -, rfl⟩ |
    ⟨d, rest, -, rfl⟩ | ⟨a, d, rest, -, -, -, rfl⟩ | ⟨a, d, rest, -, -, rfl⟩ := step_cases h
  · exact absurd ht (kept rfl)
  · exact absurd ht (kept rfl)
  · exact .inr ⟨rest, hp⟩
  · exact absurd (issue_keeps_errs_set hc hs) (by simp [ht])
  · exact .inl ⟨d, rest, hp, bit8_of_statusHostWrite_clears hs ht⟩
  · exact absurd ht (kept rfl)
  · exact absurd ht (kept rfl)
  · exact absurd ht (kept (inWriteWord_status ..))
  · exact absurd ht (kept rfl)

/-- Settles O23: each access by the write that it makes, a CMD write by its frame. -/
theorem stateChangesOnlyByItsOwnAccess : Obligations.StateChangesOnlyByItsOwnAccess := by
  intro s t h hreset
  obtain ⟨-, rfl⟩ | ⟨a, rest, -, rfl⟩ | ⟨rest, hp, -⟩ | ⟨c, rest, hp, hc⟩ | ⟨d, rest, hp, rfl⟩ | ⟨d, rest, hp, rfl⟩ |
    ⟨d, rest, hp, rfl⟩ | ⟨a, d, rest, hp, hlo, hhi, rfl⟩ | ⟨a, d, rest, -, -, rfl⟩ := step_cases h
  · simp
  · simp
  · exact absurd hp (hreset rest)
  · obtain ⟨w, out, segs, res, st, rfl⟩ := issue_frame hc
    have hcmd : ∃ c rest, s.pending = .write 0x0005 c :: rest := ⟨c, rest, hp⟩
    exact ⟨absurd rfl, absurd rfl, absurd rfl, fun _ => hcmd, fun _ => .inl hcmd, fun _ => hcmd⟩
  · have hstatus : ∃ d rest, s.pending = .write 0x0001 d :: rest := ⟨d, rest, hp⟩
    exact ⟨absurd rfl, absurd rfl, absurd rfl, by simp, fun _ => .inr hstatus, by simp [statusHostWrite]⟩
  · have himm : ∃ d rest, s.pending = .write 0x0003 d :: rest := ⟨d, rest, hp⟩
    exact ⟨fun _ => himm, absurd rfl, absurd rfl, by simp, absurd rfl, by simp⟩
  · have hinlen : ∃ d rest, s.pending = .write 0x0004 d :: rest := ⟨d, rest, hp⟩
    exact ⟨absurd rfl, fun _ => hinlen, absurd rfl, by simp, absurd rfl, by simp⟩
  · have hin : ∃ a d rest, s.pending = .write a d :: rest ∧ 0x1000 ≤ 4 * a.toNat ∧ 4 * a.toNat < 0x2000 :=
      ⟨a, d, rest, hp, hlo, hhi⟩
    exact ⟨by simp, by simp, fun _ => hin, by simp, by simp, by simp⟩
  · simp

end Sys2Proof.Machine
end

section
/-! The segment list through a command (R42, R146): kept, or longer by one segment at its end. -/
namespace Sys2Proof.Machine

variable {s t : State}

/-- The outcome's next state, where it has one, has the list of `s`. -/
def KeepsSegs (s : State) (o : Host.Outcome State Fault Refusal) : Prop := ∀ t, o = .next t → t.segs = s.segs

/-- The outcome's next state, where it has one, has the list of `s`, or that list and one more segment at its end. -/
def KeepsOrAddsSeg (s : State) (o : Host.Outcome State Fault Refusal) : Prop :=
  ∀ t, o = .next t → t.segs = s.segs ∨ ∃ g : Segment, t.segs = s.segs ++ [g]

theorem done_segs {u : State} (h : done u = .next t) : t.segs = u.segs := by rw [done_next h, State.setStatus_segs]

theorem done_keepsSegs {u : State} (hu : u.segs = s.segs) : KeepsSegs s (done u) := fun _ h => (done_segs h).trans hu

theorem raise_keepsSegs (e : LErr) (s : State) : KeepsSegs s (raise e s) := fun t h => by
  rw [raise_next h, State.setStatus_segs]

theorem capacityExceeded_keepsSegs (s : State) : KeepsSegs s (capacityExceeded s) := fun t h => by
  rw [capacityExceeded_next h, State.setStatus_segs, State.setRes_segs]

theorem withSlot_keepsSegs (sl : Nat) (s : State) {f : Segment → State} (hf : ∀ g, (f g).segs = s.segs) :
    KeepsSegs s (withSlot sl s f) := by
  obtain ⟨-, h⟩ | ⟨g, -, h⟩ := withSlot_cases sl s f <;> rw [h]
  · exact raise_keepsSegs _ s
  · exact done_keepsSegs (hf g)

theorem execBbAppend_keepsSegs (wd : Nat) (s : State) : KeepsSegs s (execBbAppend wd s) := by
  unfold execBbAppend
  split
  · exact raise_keepsSegs _ s
  · split
    · exact raise_keepsSegs _ s
    · exact done_keepsSegs rfl

theorem execCcw_keepsSegs (md : Mode) (vr : Nat) (s : State) : KeepsSegs s (execCcw md vr s) := by
  unfold execCcw
  split
  · exact done_keepsSegs rfl
  · exact raise_keepsSegs _ s

theorem execTotalBits_keepsSegs (vr : Nat) (s : State) : KeepsSegs s (execTotalBits vr s) := by
  unfold execTotalBits
  split
  · split
    · exact capacityExceeded_keepsSegs s
    · exact done_keepsSegs rfl
  · exact raise_keepsSegs _ s

theorem execSerialize_keepsSegs (vr : Nat) (s : State) : KeepsSegs s (execSerialize vr s) := by
  unfold execSerialize
  split
  · split
    · exact capacityExceeded_keepsSegs s
    · split
      · exact raise_keepsSegs _ s
      · exact done_keepsSegs rfl
  · exact raise_keepsSegs _ s

theorem KeepsSegs.keepsOrAddsSeg {o : Host.Outcome State Fault Refusal} (h : KeepsSegs s o) : KeepsOrAddsSeg s o :=
  fun t ht => .inl (h t ht)

theorem raise_keepsOrAddsSeg (e : LErr) (s : State) : KeepsOrAddsSeg s (raise e s) :=
  (raise_keepsSegs e s).keepsOrAddsSeg

/-- R160: where the segment is made, it is the last one. -/
theorem factoryCommit_keepsOrAddsSeg (m : Mode) (n : Nat) (b : Bits) (s : State) :
    KeepsOrAddsSeg s (factoryCommit m n b s) := by
  obtain ⟨-, h⟩ | ⟨-, h⟩ | ⟨-, -, h⟩ := factoryCommit_cases m n b s <;> rw [h]
  · exact raise_keepsOrAddsSeg _ s
  · exact raise_keepsOrAddsSeg _ s
  · exact fun t ht => .inr ⟨_, done_segs ht⟩

theorem numericBody_keepsOrAddsSeg (s : State) : KeepsOrAddsSeg s (numericBody s) := by
  unfold numericBody
  split
  · exact factoryCommit_keepsOrAddsSeg _ _ _ s
  · exact raise_keepsOrAddsSeg _ s

theorem alnumBody_keepsOrAddsSeg (s : State) : KeepsOrAddsSeg s (alnumBody s) := by
  unfold alnumBody
  split
  · exact factoryCommit_keepsOrAddsSeg _ _ _ s
  · exact raise_keepsOrAddsSeg _ s

theorem execSegEci_keepsOrAddsSeg (s : State) : KeepsOrAddsSeg s (execSegEci s) := by
  unfold execSegEci
  split
  · exact raise_keepsOrAddsSeg _ s
  · exact factoryCommit_keepsOrAddsSeg _ _ _ s

theorem execSegAuto_keepsOrAddsSeg (s : State) : KeepsOrAddsSeg s (execSegAuto s) := by
  unfold execSegAuto
  split
  · exact (done_keepsSegs rfl).keepsOrAddsSeg
  · split
    · exact numericBody_keepsOrAddsSeg s
    · split
      · exact alnumBody_keepsOrAddsSeg s
      · exact factoryCommit_keepsOrAddsSeg _ _ _ s

/-- SEG_MAKE: the negative count, the full list, or the new segment (R140). -/
theorem execSegMake_cases (md : Mode) (s : State) :
    (s.imm.toInt < 0 ∧ execSegMake md s = raise .invalidArgument s) ∨
      (s.segcnt = s.params.nSeg ∧ execSegMake md s = raise .listFull s) ∨
      (0 ≤ s.imm.toInt ∧ s.segcnt ≠ s.params.nSeg ∧
        execSegMake md s = done ((addseg md s.imm.toInt.toNat s.w s).setRes (word32 (s.segcnt + 1)))) := by
  unfold execSegMake
  split
  · exact .inl ⟨‹_›, rfl⟩
  · split
    · exact .inr (.inl ⟨‹_›, rfl⟩)
    · exact .inr (.inr ⟨Int.not_lt.1 ‹_›, ‹_›, by simp⟩)

theorem execSegMake_keepsOrAddsSeg (md : Mode) (s : State) : KeepsOrAddsSeg s (execSegMake md s) := by
  obtain ⟨-, h⟩ | ⟨-, h⟩ | ⟨-, -, h⟩ := execSegMake_cases md s <;> rw [h]
  · exact raise_keepsOrAddsSeg _ s
  · exact raise_keepsOrAddsSeg _ s
  · exact fun t ht => .inr ⟨_, done_segs ht⟩

/-- The commands that can make a segment (R146): SEG_MAKE and the factories. -/
def MakesSegment (i : Instr) : Prop := (∃ m, i = .segMake m) ∨ i ∈ [.segNum, .segAlnum, .segBytes, .segEci, .segAuto]

/-- What each command can do to the list. -/
theorem exec_segs_cases (i : Instr) (s : State) :
    KeepsSegs s (exec i s) ∨ i = .listClear ∨ (MakesSegment i ∧ KeepsOrAddsSeg s (exec i s)) := by
  cases i with
  | nop => exact .inl (done_keepsSegs rfl)
  | bbClear => exact .inl (done_keepsSegs rfl)
  | bbAppend wd => exact .inl (execBbAppend_keepsSegs wd s)
  | bbLen => exact .inl (done_keepsSegs rfl)
  | modeInd md => exact .inl (done_keepsSegs rfl)
  | ccw md vr => exact .inl (execCcw_keepsSegs md vr s)
  | segMake md => exact .inr (.inr ⟨.inl ⟨md, rfl⟩, execSegMake_keepsOrAddsSeg md s⟩)
  | segMode sl => exact .inl (withSlot_keepsSegs sl s fun _ => rfl)
  | segCount sl => exact .inl (withSlot_keepsSegs sl s fun _ => rfl)
  | segData sl => exact .inl (withSlot_keepsSegs sl s fun _ => rfl)
  | listClear => exact .inr (.inl rfl)
  | listLen => exact .inl (done_keepsSegs rfl)
  | segNum => exact .inr (.inr ⟨.inr (by decide), numericBody_keepsOrAddsSeg s⟩)
  | segAlnum => exact .inr (.inr ⟨.inr (by decide), alnumBody_keepsOrAddsSeg s⟩)
  | segBytes => exact .inr (.inr ⟨.inr (by decide), factoryCommit_keepsOrAddsSeg _ _ _ s⟩)
  | segEci => exact .inr (.inr ⟨.inr (by decide), execSegEci_keepsOrAddsSeg s⟩)
  | segAuto => exact .inr (.inr ⟨.inr (by decide), execSegAuto_keepsOrAddsSeg s⟩)
  | totalBits vr => exact .inl (execTotalBits_keepsSegs vr s)
  | outClear => exact .inl (done_keepsSegs rfl)
  | outLen => exact .inl (done_keepsSegs rfl)
  | serialize vr => exact .inl (execSerialize_keepsSegs vr s)

/-- Settles O30: by what each command can do to the list. -/
theorem segmentListGrowsAtItsEndOrIsCleared : Obligations.SegmentListGrowsAtItsEndOrIsCleared := by
  intro i s t h
  obtain hkept | rfl | ⟨hmakes, hadds⟩ := exec_segs_cases i s
  · exact .inl (hkept t h)
  · exact .inr (.inl ⟨rfl, done_segs h⟩)
  · exact (hadds t h).imp_right fun hg => .inr ⟨hmakes, hg⟩

/-- LIST_CLEAR apart, a command does nothing to the list but add at its end (R42). -/
theorem exec_segs_append {i : Instr} (hi : i ≠ .listClear) (h : exec i s = .next t) :
    ∃ added, t.segs = s.segs ++ added := by
  obtain hkept | ⟨hclear, -⟩ | ⟨-, g, hadded⟩ := segmentListGrowsAtItsEndOrIsCleared i s t h
  · exact ⟨[], by rw [hkept, List.append_nil]⟩
  · exact absurd hclear hi
  · exact ⟨[g], hadded⟩

/-- LIST_CLEAR apart, a command keeps the segment in every slot (R147). -/
theorem exec_keeps_slot {i : Instr} (hi : i ≠ .listClear) (h : exec i s = .next t) {k : Nat} {g : Segment}
    (hk : s.segs[k]? = some g) : t.segs[k]? = some g := by
  obtain ⟨hlt, -⟩ := List.getElem?_eq_some_iff.1 hk
  obtain ⟨added, hadded⟩ := exec_segs_append hi h
  rw [hadded, List.getElem?_append_left hlt, hk]

/-- SEG_DATA of a slot that the list has (R143). -/
theorem exec_segData_of_slot {sl : Nat} {g : Segment} (h : s.segs[sl]? = some g) :
    exec (.segData sl) s = done ((s.setW g.data).setRes (word32 g.data.length)) := by
  simp only [exec, execSegData, withSlot, h]

/-- The slot that a successful SEG_MAKE makes (R140). -/
theorem exec_segMake_slot {m : Mode} (himm : 0 ≤ s.imm.toInt) (hroom : s.segs.length ≠ s.params.nSeg)
    (h : exec (.segMake m) s = .next t) :
    t.segs[s.segs.length]? = some { mode := m, count := s.imm.toInt.toNat, data := s.w } := by
  obtain ⟨hneg, -⟩ | ⟨hfull, -⟩ | ⟨-, -, he⟩ := execSegMake_cases m s
  · exact absurd himm (Int.not_le.2 hneg)
  · exact absurd hfull hroom
  · rw [done_segs (he.symm.trans h), State.setRes_segs, addseg_segs, List.getElem?_concat_length]

/-- Settles O32: the new slot holds W, the command in between keeps the slot, and SEG_DATA reads it. -/
theorem segDataReturnsWhatSegMakeStored : Obligations.SegDataReturnsWhatSegMakeStored := by
  intro m i s t u himm hroom hmake hi hcmd
  have hslot := exec_keeps_slot hi hcmd (exec_segMake_slot himm hroom hmake)
  exact ⟨_, exec_segData_of_slot hslot, rfl, rfl⟩

end Sys2Proof.Machine
end

section
/-! The host port by address: the word that a read returns, and what a write does (R62, R63). -/
namespace Sys2Proof.Machine

variable {s : State} {a : PortAddr} {d : Word} {rest : List HostEvent} {n o j : Nat}

/-- The port's word does not depend on the accesses still to come (log 1). -/
theorem portRead_setPending (s : State) (l : List HostEvent) (n : Nat) :
    portRead (s.setPending l) n = portRead s n := rfl

theorem portRead_inWindow (s : State) (ho : o < 0x1000) : portRead s (0x1000 + o) = inReadWord s o := by
  unfold portRead
  iterate 6 rw [if_neg (by omega)]
  rw [if_pos (by omega), Nat.add_sub_cancel_left]

theorem portRead_wWindow (s : State) (hj : j < 1024) : portRead s (0x2000 + 4 * j) = windowWord s.w j := by
  unfold portRead
  iterate 7 rw [if_neg (by omega)]
  rw [if_pos (by omega), Nat.add_sub_cancel_left, Nat.mul_div_cancel_left j (by decide)]

theorem portRead_outWindow (s : State) (hj : j < 2048) : portRead s (0x4000 + 4 * j) = windowWord s.out j := by
  unfold portRead
  iterate 8 rw [if_neg (by omega)]
  rw [if_pos (by omega), Nat.add_sub_cancel_left, Nat.mul_div_cancel_left j (by decide)]

/-- R63: past the registers, an address in none of the three windows reads as 0. -/
theorem portRead_unmapped (s : State) (hreg : 0x0018 ≤ n)
    (hwindows : n < 0x1000 ∨ (0x3000 ≤ n ∧ n < 0x4000) ∨ 0x6000 ≤ n) : portRead s n = 0 := by
  unfold portRead
  iterate 9 rw [if_neg (by omega)]

/-- A write is the port's write at the address's byte address (R60). -/
theorem step_write (h : s.pending = .write a d :: rest) (ha : 4 * a.toNat = n) :
    step s = portWrite n d (s.setPending rest) := by
  rw [← ha]
  exact step_event h

theorem portWrite_inWindow (d : Word) (s : State) (ho : o < 0x1000) :
    portWrite (0x1000 + o) d s = .next (inWriteWord o d s) := by
  unfold portWrite
  iterate 4 rw [if_neg (by omega)]
  rw [if_pos (by omega), Nat.add_sub_cancel_left]

/-- R62, R63: a write changes nothing at any address but the four registers that it can write and the IN window. -/
theorem portWrite_ignored (d : Word) (s : State) (hregs : n ≠ 0x0004 ∧ n ≠ 0x000C ∧ n ≠ 0x0010 ∧ n ≠ 0x0014)
    (hin : n < 0x1000 ∨ 0x2000 ≤ n) : portWrite n d s = .next s := by
  unfold portWrite
  iterate 5 rw [if_neg (by omega)]

theorem step_writeIgnored (h : s.pending = .write a d :: rest)
    (hregs : 4 * a.toNat ≠ 0x0004 ∧ 4 * a.toNat ≠ 0x000C ∧ 4 * a.toNat ≠ 0x0010 ∧ 4 * a.toNat ≠ 0x0014)
    (hin : 4 * a.toNat < 0x1000 ∨ 0x2000 ≤ 4 * a.toNat) : step s = .next (s.setPending rest) :=
  (step_write h rfl).trans (portWrite_ignored d _ hregs hin)

/-- R213: bit 8 of the data is what takes ERRS away. -/
theorem statusHostWrite_eq_ite (st : Status) (d : Word) :
    statusHostWrite st d = { st with errs := if d.getLsbD 8 = true then false else st.errs } := by
  unfold statusHostWrite
  cases d.getLsbD 8 <;> simp

/-- Settles O9: the step of a read, whose word does not depend on what is left of the queue. -/
theorem hostReadChangesNothing : Obligations.HostReadChangesNothing := fun s a rest h => by
  rw [step_read h, portRead_setPending]
  rfl

/-- Settles O11: the read and the write of each register by its branch of the port, the rest by the rules for
unmapped addresses and ignored writes. -/
theorem registerMapReadsAndWrites : Obligations.RegisterMapReadsAndWrites := by
  refine ⟨fun s => ⟨rfl, rfl, rfl, rfl, rfl, rfl, fun a hlo hhi => portRead_unmapped s hlo (by omega)⟩,
    fun s a d rest h => ⟨?id, ?status, ?res, ?imm, ?inlen, ?cmd, ?unmapped⟩⟩
  case id => exact fun ha => step_writeIgnored h (by omega) (by omega)
  case status =>
    intro ha
    rw [← statusHostWrite_eq_ite]
    exact step_write h ha
  case res => exact fun ha => step_writeIgnored h (by omega) (by omega)
  case imm => exact step_write h
  case inlen => exact step_write h
  case cmd => exact step_write h
  case unmapped => exact fun hlo hhi => step_writeIgnored h (by omega) (by omega)

/-- Settles O16: both ranges lie outside the windows, and only addresses below 0x2000 can be written. -/
theorem unmappedReadsZeroAndStrayWritesAreIgnored : Obligations.UnmappedReadsZeroAndStrayWritesAreIgnored :=
  ⟨fun s a ha => portRead_unmapped s (by omega) (by omega),
    fun s a d rest h ha => step_writeIgnored h (by omega) (.inr ha)⟩

end Sys2Proof.Machine
end

section
/-! The bytes of a port word (R67), and the bits of a buffer window's word (R64). -/
namespace Sys2Proof.Machine

variable {k t i : Nat}

/-- R67: byte k of the word is the k-th byte that it is made of. -/
theorem wordOfBytes_byte {f : Nat → Nat} (hf : ∀ k, f k < 256) (hk : k < 4) :
    (wordOfBytes (f 0) (f 1) (f 2) (f 3)).toNat / 2 ^ (8 * k) % 256 = f k := by
  have h0 := hf 0
  have h1 := hf 1
  have h2 := hf 2
  have h3 := hf 3
  rw [wordOfBytes, BitVec.toNat_ofNat]
  interval_cases k <;> omega

/-- Bit `8 * k + i` of a number is bit i of its byte k. -/
theorem testBit_of_byte (v k : Nat) (hi : i < 8) : v.testBit (8 * k + i) = (v / 2 ^ (8 * k) % 256).testBit i := by
  rw [show 256 = 2 ^ 8 from rfl, Nat.testBit_mod_two_pow, Nat.testBit_div_two_pow, decide_eq_true hi, Bool.true_and,
    Nat.add_comm i]

theorem natOfBits_concat (b : Bits) (x : Bool) : natOfBits (b ++ [x]) = Nat.bit x (natOfBits b) := by
  rw [natOfBits, List.foldl_concat, Nat.bit_val]
  rfl

/-- The last bit of the sequence is the number's bit 0. -/
theorem natOfBits_testBit (b : Bits) (i : Nat) : (natOfBits b).testBit i = bitAt b.reverse i := by
  induction b using List.reverseRecOn generalizing i with
  | nil => exact Nat.zero_testBit i
  | append_singleton b x ih =>
    rw [natOfBits_concat, List.reverse_concat]
    cases i with
    | zero => exact Nat.testBit_bit_zero x _
    | succ i => rw [Nat.testBit_bit_succ, ih, bitAt, bitAt, List.getElem?_cons_succ]

theorem natOfBits_lt (b : Bits) : natOfBits b < 2 ^ b.length := by
  refine Nat.lt_pow_two_of_testBit _ fun i hi => ?_
  rw [natOfBits_testBit, bitAt, List.getElem?_eq_none (by rwa [List.length_reverse]), Option.getD_none]

theorem byteOf_lt (b : Bits) (k : Nat) : byteOf b k < 256 := by
  simpa [byteOf] using natOfBits_lt ((List.range 8).map fun t => bitAt b (8 * k + t))

/-- R64: bit `8 * k + t` of the buffer is `7 - t` places up in byte k. -/
theorem byteOf_testBit (b : Bits) (k : Nat) (ht : t < 8) : (byteOf b k).testBit (7 - t) = bitAt b (8 * k + t) := by
  rw [byteOf, natOfBits_testBit, bitAt, List.getElem?_reverse (by rw [List.length_map, List.length_range]; omega),
    List.getElem?_map, List.length_map, List.length_range, List.getElem?_range (by omega), Option.map_some, Option.getD_some]
  congr 2
  omega

/-- R64: byte k of word j is byte `4 * j + k` of the window. -/
theorem windowWord_byte (b : Bits) (j : Nat) (hk : k < 4) :
    (windowWord b j).toNat / 2 ^ (8 * k) % 256 = byteOf b (4 * j + k) :=
  wordOfBytes_byte (f := fun k => byteOf b (4 * j + k)) (fun _ => byteOf_lt b _) hk

/-- R64: the window's word, bit by bit. -/
theorem windowWord_getLsbD (b : Bits) (j : Nat) (hk : k < 4) (ht : t < 8) :
    (windowWord b j).getLsbD (8 * k + (7 - t)) = bitAt b (8 * (4 * j + k) + t) := by
  rw [BitVec.getLsbD, testBit_of_byte _ _ (by omega), windowWord_byte b j hk, byteOf_testBit b _ ht]

/-- Settles O17: a read of either window returns the window's word. -/
theorem bufferWindowsArePackedMsbFirst : Obligations.BufferWindowsArePackedMsbFirst := by
  refine ⟨fun s a rest j h hj ha => ⟨_, hostReadChangesNothing s a rest h, fun k t hk ht => ?_⟩,
    fun s a rest j h hj ha => ⟨_, hostReadChangesNothing s a rest h, fun k t hk ht => ?_⟩⟩
  · rw [ha, portRead_wWindow s hj]
    exact windowWord_getLsbD s.w j hk ht
  · rw [ha, portRead_outWindow s hj]
    exact windowWord_getLsbD s.out j hk ht

end Sys2Proof.Machine
end

section
/-! The IN window: the four bytes of a word written and read (R71). -/
namespace Sys2Proof.Machine

variable {s : State} {a : PortAddr} {d : Word} {rest : List HostEvent} {o k : Nat}

/-- R71: an offset that IN does not have reads as 0. -/
theorem inByte_of_outside {x : Nat} (hx : s.params.inBytes ≤ x) : inByte s x = 0 := if_neg (Nat.not_lt.2 hx)

/-- A byte of IN after a write of a word: the word's byte at its four offsets, dropped past IN's end (R71). -/
theorem inByte_inWriteWord (o x : Nat) (d : Word) (s : State) :
    inByte (inWriteWord o d s) x =
      if o ≤ x ∧ x < o + 4 ∧ x < s.params.inBytes then byteOfWord d (x - o) else inByte s x := by
  simp only [inWriteWord, inByte_inWriteByte, inWriteByte_params]
  by_cases hx : o ≤ x ∧ x < o + 4
  · obtain ⟨k, rfl⟩ := Nat.exists_eq_add_of_le hx.1
    have hk : k < 4 := by omega
    interval_cases k <;> simp
  · rw [if_neg (by omega), if_neg (by omega), if_neg (by omega), if_neg (by omega), if_neg (by omega)]

theorem inReadWord_byte (s : State) (o : Nat) (hk : k < 4) :
    (inReadWord s o).toNat / 2 ^ (8 * k) % 256 = (inByte s (o + k)).toNat :=
  wordOfBytes_byte (f := fun k => (inByte s (o + k)).toNat) (fun _ => BitVec.isLt _) hk

/-- R67: a word is made of its own four bytes. -/
theorem wordOfBytes_byteOfWord (d : Word) :
    wordOfBytes (byteOfWord d 0).toNat (byteOfWord d 1).toNat (byteOfWord d 2).toNat (byteOfWord d 3).toNat = d := by
  apply BitVec.eq_of_toNat_eq
  simp only [wordOfBytes, byteOfWord, BitVec.toNat_ofNat]
  omega

/-- R67: the word written at an offset is the word read there, where IN has all four of its bytes. -/
theorem inReadWord_inWriteWord (d : Word) (h : o + 4 ≤ s.params.inBytes) : inReadWord (inWriteWord o d s) o = d := by
  have hbyte (k : Nat) (hk : k < 4) : inByte (inWriteWord o d s) (o + k) = byteOfWord d k := by
    rw [inByte_inWriteWord, if_pos (by omega), Nat.add_sub_cancel_left]
  have hfirst : inByte (inWriteWord o d s) o = byteOfWord d 0 := hbyte 0 (by decide)
  rw [inReadWord, hfirst, hbyte 1 (by decide), hbyte 2 (by decide), hbyte 3 (by decide), wordOfBytes_byteOfWord]

/-- A host write into the IN window (R71). -/
theorem step_writeIn (h : s.pending = .write a d :: rest) (ha : 4 * a.toNat = 0x1000 + o) (ho : o < 0x1000) :
    step s = .next (inWriteWord o d (s.setPending rest)) :=
  (step_write h ha).trans (portWrite_inWindow d _ ho)

/-- Settles O18: the write changes IN alone, byte by byte; the read returns IN's bytes, 0 outside; a byte not listed is
the free value. -/
theorem inWindowMovesFourBytes : Obligations.InWindowMovesFourBytes := by
  refine ⟨fun s a d rest o h ha ho => ⟨_, step_writeIn h ha ho, inWriteWord_frame o d _, fun x => ?_⟩,
    fun s a rest o h ha ho => ⟨_, hostReadChangesNothing s a rest h, fun k hk => ?_⟩, fun s o => inByte_of_unwritten⟩
  · exact inByte_inWriteWord o x d _
  · rw [ha, portRead_inWindow s ho, inReadWord_byte s o hk]
    split
    · rfl
    · next hout => rw [inByte_of_outside (Nat.not_lt.1 hout)]; rfl

/-- Settles O19: the read finds the word that the write left in IN. -/
theorem inWindowReadReturnsTheWrittenWord : Obligations.InWindowReadReturnsTheWrittenWord := by
  intro s a d rest h hlo hhi hfit
  obtain ⟨o, ha⟩ := Nat.exists_eq_add_of_le hlo
  have ho : o < 0x1000 := by omega
  refine ⟨_, _, step_writeIn h ha ho, hostReadChangesNothing _ a rest (inWriteWord_pending ..), ?_, rfl⟩
  rw [ha, portRead_inWindow _ ho]
  exact inReadWord_inWriteWord d (by rw [State.setPending_params]; omega)

end Sys2Proof.Machine
end

section
/-! A command reads IN through its text operand alone, so below INLEN (R70). -/
namespace Sys2Proof.Machine

/-- The state with another content of IN. -/
def State.withIn (s : State) (m : Memory) (e : Nat) : State := { s with input := m, inEpoch := e }

theorem State.withIn_segs (s : State) (m : Memory) (e : Nat) : (s.withIn m e).segs = s.segs := rfl

/-- The outcome with another content of IN in its next state. -/
def outcomeWithIn (m : Memory) (e : Nat) : Host.Outcome State Fault Refusal → Host.Outcome State Fault Refusal
  | .next t => .next (t.withIn m e)
  | .fault r => .fault r
  | .refused r => .refused r

/-- From `s`, the operation ends in the same way, IN apart, when IN holds the other content. -/
def IgnoresIn (s : State) (m : Memory) (e : Nat) (f : State → Host.Outcome State Fault Refusal) : Prop :=
  f (s.withIn m e) = outcomeWithIn m e (f s)

variable {s : State} {m : Memory} {e : Nat} {f g : State → Host.Outcome State Fault Refusal}

theorem done_ignoresIn {u : State → State} (hu : u (s.withIn m e) = (u s).withIn m e) :
    IgnoresIn s m e (fun s => done (u s)) := by
  simp only [IgnoresIn, hu]
  rfl

theorem raise_ignoresIn (err : LErr) : IgnoresIn s m e (raise err) := rfl

/-- A choice by a condition that does not depend on the other content. -/
theorem IgnoresIn.ite {c : State → Prop} [DecidablePred c] (hc : c (s.withIn m e) ↔ c s) (hf : IgnoresIn s m e f)
    (hg : IgnoresIn s m e g) : IgnoresIn s m e (fun s => if c s then f s else g s) := by
  simp only [IgnoresIn, hc]
  split
  · exact hf
  · exact hg

theorem withSlot_ignoresIn (sl : Nat) {u : State → Segment → State}
    (hu : ∀ seg, u (s.withIn m e) seg = (u s seg).withIn m e) : IgnoresIn s m e (fun s => withSlot sl s (u s)) := by
  simp only [IgnoresIn, withSlot, funext hu, State.withIn_segs]
  cases s.segs[sl]? with
  | none => rfl
  | some seg => rfl

theorem factoryCommit_ignoresIn (md : Mode) {n : State → Nat} {b : State → Bits} (hn : n (s.withIn m e) = n s)
    (hb : b (s.withIn m e) = b s) : IgnoresIn s m e (fun s => factoryCommit md (n s) (b s) s) := by
  have hcommit : IgnoresIn s m e (factoryCommit md (n s) (b s)) :=
    .ite Iff.rfl (raise_ignoresIn _) (.ite Iff.rfl (raise_ignoresIn _) (done_ignoresIn rfl))
  simp only [IgnoresIn, hn, hb]
  exact hcommit

theorem execBbAppend_ignoresIn (wd : Nat) : IgnoresIn s m e (execBbAppend wd) :=
  .ite Iff.rfl (raise_ignoresIn _) (.ite Iff.rfl (raise_ignoresIn _) (done_ignoresIn rfl))

theorem execCcw_ignoresIn (md : Mode) (vr : Nat) : IgnoresIn s m e (execCcw md vr) :=
  .ite Iff.rfl (done_ignoresIn rfl) (raise_ignoresIn _)

theorem execSegMake_ignoresIn (md : Mode) : IgnoresIn s m e (execSegMake md) :=
  .ite Iff.rfl (raise_ignoresIn _) (.ite Iff.rfl (raise_ignoresIn _) (done_ignoresIn rfl))

theorem execSegEci_ignoresIn : IgnoresIn s m e execSegEci :=
  .ite Iff.rfl (raise_ignoresIn _) (factoryCommit_ignoresIn _ rfl rfl)

theorem execTotalBits_ignoresIn (vr : Nat) : IgnoresIn s m e (execTotalBits vr) := by
  refine .ite Iff.rfl ?_ (raise_ignoresIn _)
  have hsum : totalBitsOf (s.withIn m e) vr = totalBitsOf s vr := rfl
  simp only [IgnoresIn, hsum]
  cases totalBitsOf s vr with
  | none => rfl
  | some r => rfl

theorem execSerialize_ignoresIn (vr : Nat) : IgnoresIn s m e (execSerialize vr) := by
  refine .ite Iff.rfl ?_ (raise_ignoresIn _)
  have hsum : totalBitsOf (s.withIn m e) vr = totalBitsOf s vr := rfl
  simp only [IgnoresIn, hsum]
  cases totalBitsOf s vr with
  | none => rfl
  | some r =>
    rw [apply_ite (outcomeWithIn m e)]
    rfl

/-- R70: the text operand is the bytes below INLEN. -/
theorem textOperand_withIn (h : ∀ o, o < s.inlen.toNat → inByte (s.withIn m e) o = inByte s o) :
    textOperand (s.withIn m e) = textOperand s :=
  List.map_congr_left fun o ho => h o (List.mem_range.1 ho)

theorem numericBody_ignoresIn (h : textOperand (s.withIn m e) = textOperand s) : IgnoresIn s m e numericBody :=
  .ite (by rw [h]) (factoryCommit_ignoresIn _ rfl (by rw [h])) (raise_ignoresIn _)

theorem alnumBody_ignoresIn (h : textOperand (s.withIn m e) = textOperand s) : IgnoresIn s m e alnumBody :=
  .ite (by rw [h]) (factoryCommit_ignoresIn _ rfl (by rw [h])) (raise_ignoresIn _)

theorem bytesBody_ignoresIn (h : textOperand (s.withIn m e) = textOperand s) : IgnoresIn s m e bytesBody :=
  factoryCommit_ignoresIn _ rfl (by rw [h])

theorem execSegAuto_ignoresIn (h : textOperand (s.withIn m e) = textOperand s) : IgnoresIn s m e execSegAuto :=
  .ite Iff.rfl (done_ignoresIn rfl) <| .ite (by rw [h]) (numericBody_ignoresIn h) <|
    .ite (by rw [h]) (alnumBody_ignoresIn h) (bytesBody_ignoresIn h)

/-- Where the text operands agree, a command ends in the same way with the other content of IN. -/
theorem exec_ignoresIn (h : textOperand (s.withIn m e) = textOperand s) (i : Instr) : IgnoresIn s m e (exec i) := by
  cases i with
  | nop => exact done_ignoresIn rfl
  | bbClear => exact done_ignoresIn rfl
  | bbAppend wd => exact execBbAppend_ignoresIn wd
  | bbLen => exact done_ignoresIn rfl
  | modeInd md => exact done_ignoresIn rfl
  | ccw md vr => exact execCcw_ignoresIn md vr
  | segMake md => exact execSegMake_ignoresIn md
  | segMode sl => exact withSlot_ignoresIn sl fun _ => rfl
  | segCount sl => exact withSlot_ignoresIn sl fun _ => rfl
  | segData sl => exact withSlot_ignoresIn sl fun _ => rfl
  | listClear => exact done_ignoresIn rfl
  | listLen => exact done_ignoresIn rfl
  | segNum => exact numericBody_ignoresIn h
  | segAlnum => exact alnumBody_ignoresIn h
  | segBytes => exact bytesBody_ignoresIn h
  | segEci => exact execSegEci_ignoresIn
  | segAuto => exact execSegAuto_ignoresIn h
  | totalBits vr => exact execTotalBits_ignoresIn vr
  | outClear => exact done_ignoresIn rfl
  | outLen => exact done_ignoresIn rfl
  | serialize vr => exact execSerialize_ignoresIn vr

/-- Settles O33: the two states have one text operand, and a command sees no more of IN. -/
theorem commandsReadInputOnlyBelowInlen : Obligations.CommandsReadInputOnlyBelowInlen := by
  intro i s t m e hagree h
  have hsame := exec_ignoresIn (textOperand_withIn hagree) i
  rw [IgnoresIn, h] at hsame
  exact hsame

end Sys2Proof.Machine
end

section
/-! The fields of a command word (R91). -/
namespace Sys2Proof

variable {op wd md vr sl : Nat}

/-- Each field is in the range of its bits; OP apart. -/
def FieldsFit (wd md vr sl : Nat) : Prop := wd ≤ 31 ∧ md ≤ 15 ∧ vr ≤ 63 ∧ sl ≤ 63

/-- Fields in range are the fields of the word that they pack into. -/
theorem packFields_operands (ho : op ≤ 63) (h : FieldsFit wd md vr sl) :
    wdField (packFields op wd md vr sl) = wd ∧ mdField (packFields op wd md vr sl) = md ∧
      vrField (packFields op wd md vr sl) = vr ∧ slField (packFields op wd md vr sl) = sl := by
  obtain ⟨hw, hm, hv, hs⟩ := h
  simp only [wdField, mdField, vrField, slField, wordField, packFields, BitVec.toNat_ofNat]
  omega

theorem packFields_op_rsv (ho : op ≤ 63) (h : FieldsFit wd md vr sl) :
    opField (packFields op wd md vr sl) = op ∧ rsvField (packFields op wd md vr sl) = 0 := by
  obtain ⟨hw, hm, hv, hs⟩ := h
  exact Laws.OwnOpcode.packFields_fields ho hw hm hv hs

/-- A word with RSV = 0 is packed from its fields. -/
theorem packFields_of_fields {c : Word} (h : rsvField c = 0) :
    packFields (opField c) (wdField c) (mdField c) (vrField c) (slField c) = c := by
  apply BitVec.eq_of_toNat_eq
  simp only [rsvField, wordField] at h
  simp only [packFields, opField, wdField, mdField, vrField, slField, wordField, BitVec.toNat_ofNat]
  omega

theorem fieldsFit_of_word (c : Word) : FieldsFit (wdField c) (mdField c) (vrField c) (slField c) := by
  simp only [FieldsFit, wdField, mdField, vrField, slField, wordField]
  omega

/-- R94: a mode code names a mode exactly where it is the mode's indicator. -/
theorem modeOfIndicator_eq_some_iff {m : Mode} : modeOfIndicator md = some m ↔ md = modeIndicator m := by
  constructor
  · unfold modeOfIndicator
    split_ifs <;> rintro ⟨⟩ <;> assumption
  · rintro rfl
    cases m <;> rfl

theorem exists_modeIndicator_iff : (∃ m, md = modeIndicator m) ↔ md ∈ [1, 2, 4, 7, 8] := by
  constructor
  · rintro ⟨m, rfl⟩
    cases m <;> decide
  · intro h
    fin_cases h
    · exact ⟨.numeric, rfl⟩
    · exact ⟨.alphanumeric, rfl⟩
    · exact ⟨.byte, rfl⟩
    · exact ⟨.eci, rfl⟩
    · exact ⟨.kanji, rfl⟩

/-- Settles O6: the mode of a code is the mode whose indicator it is. -/
theorem modeCodesNameTheFiveModes : Obligations.ModeCodesNameTheFiveModes := by
  refine ⟨fun m => modeOfIndicator_eq_some_iff.2 rfl, ⟨rfl, rfl, rfl, rfl, rfl⟩, fun md h => ?_⟩
  exact Option.eq_none_iff_forall_ne_some.2 fun m hm =>
    h (exists_modeIndicator_iff.1 ⟨m, modeOfIndicator_eq_some_iff.1 hm⟩)

end Sys2Proof
end

section
/-! The opcode map, row by row (R95): the bits that a row fixes, and the words of the command it makes. -/
namespace Sys2Proof

variable {op wd md vr sl : Nat} {i : Instr} {row : OpcodeRow} {c : Word}

/-- The bits that a form's fields fill: from the first up to, not including, the second (R91). -/
def CommandForm.span : CommandForm → Nat × Nat
  | .plain _ => (6, 6)
  | .width _ => (6, 11)
  | .mode _ => (11, 15)
  | .modeVersion _ => (11, 21)
  | .slot _ => (21, 27)
  | .version _ => (15, 21)

/-- The fields that a form does not use are 0. -/
def CommandForm.UnusedZero (wd md vr sl : Nat) : CommandForm → Prop
  | .plain _ => wd = 0 ∧ md = 0 ∧ vr = 0 ∧ sl = 0
  | .width _ => md = 0 ∧ vr = 0 ∧ sl = 0
  | .mode _ => wd = 0 ∧ vr = 0 ∧ sl = 0
  | .modeVersion _ => wd = 0 ∧ sl = 0
  | .slot _ => wd = 0 ∧ md = 0 ∧ vr = 0
  | .version _ => wd = 0 ∧ md = 0 ∧ sl = 0

/-- The command that the fields a form uses stand for. -/
def CommandForm.Names (wd md vr sl : Nat) (i : Instr) : CommandForm → Prop
  | .plain j => i = j
  | .width f => i = f wd
  | .mode f => ∃ m, md = modeIndicator m ∧ i = f m
  | .modeVersion f => ∃ m, md = modeIndicator m ∧ i = f m vr
  | .slot f => i = f sl
  | .version f => i = f vr

/-- The form makes the command `i` of the four fields. -/
def CommandForm.Makes (form : CommandForm) (wd md vr sl : Nat) (i : Instr) : Prop :=
  form.UnusedZero wd md vr sl ∧ form.Names wd md vr sl i

/-- `encode` gives the commands of a form the opcode `op` and the form's fields, and they have a word where those fit
their bits. -/
def CommandForm.Encodes (op : Nat) : CommandForm → Prop
  | .plain i => encode i = packFields op 0 0 0 0 ∧ i.wellFormed = true
  | .width f => ∀ wd, encode (f wd) = packFields op wd 0 0 0 ∧ (f wd).wellFormed = wdFits wd
  | .mode f => ∀ m, encode (f m) = packFields op 0 (modeIndicator m) 0 0 ∧ (f m).wellFormed = true
  | .modeVersion f => ∀ m vr,
      encode (f m vr) = packFields op 0 (modeIndicator m) vr 0 ∧ (f m vr).wellFormed = vrFits vr
  | .slot f => ∀ sl, encode (f sl) = packFields op 0 0 0 sl ∧ (f sl).wellFormed = slFits sl
  | .version f => ∀ vr, encode (f vr) = packFields op 0 0 vr 0 ∧ (f vr).wellFormed = vrFits vr

/-- The mask of a row whose fields fill the bits from `lo` up to, not including, `hi`. -/
def gapMask (lo hi : Nat) : Nat := 2 ^ hi * (2 ^ (32 - hi) - 1) + (2 ^ lo - 1)

/-- What the row at `op` has to be for the decoder and the encoder to agree on it. -/
structure OpcodeRow.Fits (row : OpcodeRow) (op : Nat) : Prop where
  pattern : row.pattern = BitVec.ofNat 32 op
  mask : row.mask = BitVec.ofNat 32 (gapMask row.form.span.1 row.form.span.2)
  encodes : row.form.Encodes op

theorem opcodeMap_fits : ∀ {op : Nat} {row : OpcodeRow}, opcodeMap[op]? = some row → row.Fits op
  | 0x00, _, rfl => ⟨rfl, rfl, rfl, rfl⟩
  | 0x01, _, rfl => ⟨rfl, rfl, rfl, rfl⟩
  | 0x02, _, rfl => ⟨rfl, rfl, fun _ => ⟨rfl, rfl⟩⟩
  | 0x03, _, rfl => ⟨rfl, rfl, rfl, rfl⟩
  | 0x04, _, rfl => ⟨rfl, rfl, fun _ => ⟨rfl, rfl⟩⟩
  | 0x05, _, rfl => ⟨rfl, rfl, fun _ _ => ⟨rfl, rfl⟩⟩
  | 0x06, _, rfl => ⟨rfl, rfl, fun _ => ⟨rfl, rfl⟩⟩
  | 0x07, _, rfl => ⟨rfl, rfl, fun _ => ⟨rfl, rfl⟩⟩
  | 0x08, _, rfl => ⟨rfl, rfl, fun _ => ⟨rfl, rfl⟩⟩
  | 0x09, _, rfl => ⟨rfl, rfl, fun _ => ⟨rfl, rfl⟩⟩
  | 0x0A, _, rfl => ⟨rfl, rfl, rfl, rfl⟩
  | 0x0B, _, rfl => ⟨rfl, rfl, rfl, rfl⟩
  | 0x0C, _, rfl => ⟨rfl, rfl, rfl, rfl⟩
  | 0x0D, _, rfl => ⟨rfl, rfl, rfl, rfl⟩
  | 0x0E, _, rfl => ⟨rfl, rfl, rfl, rfl⟩
  | 0x0F, _, rfl => ⟨rfl, rfl, rfl, rfl⟩
  | 0x10, _, rfl => ⟨rfl, rfl, rfl, rfl⟩
  | 0x11, _, rfl => ⟨rfl, rfl, fun _ => ⟨rfl, rfl⟩⟩
  | 0x12, _, rfl => ⟨rfl, rfl, rfl, rfl⟩
  | 0x13, _, rfl => ⟨rfl, rfl, rfl, rfl⟩
  | 0x14, _, rfl => ⟨rfl, rfl, fun _ => ⟨rfl, rfl⟩⟩

theorem opcodeMap_lt (h : opcodeMap[op]? = some row) : op < 0x15 := (List.getElem?_eq_some_iff.1 h).1

/-- A number under a row's mask: what stands below the gap and what stands above it. -/
theorem and_gapMask {x lo hi : Nat} (hx : x < 2 ^ 32) (hlo : lo ≤ hi) (hhi : hi ≤ 32) :
    x &&& gapMask lo hi = 2 ^ hi * (x / 2 ^ hi) + x % 2 ^ lo := by
  have hlow : 2 ^ lo - 1 < 2 ^ hi :=
    Nat.lt_of_lt_of_le (Nat.pred_lt (Nat.two_pow_pos lo).ne') (Nat.pow_le_pow_right (by decide) hlo)
  have hdiv : (x &&& gapMask lo hi) / 2 ^ hi = x / 2 ^ hi := by
    have htop : x / 2 ^ hi < 2 ^ (32 - hi) := by
      apply Nat.div_lt_of_lt_mul
      rwa [← Nat.pow_add, Nat.add_sub_cancel' hhi]
    rw [Nat.and_div_two_pow, gapMask, Nat.mul_add_div (Nat.two_pow_pos hi), Nat.div_eq_of_lt hlow, Nat.add_zero,
      Nat.and_two_pow_sub_one_eq_mod, Nat.mod_eq_of_lt htop]
  have hmod : (x &&& gapMask lo hi) % 2 ^ hi = x % 2 ^ lo := by
    rw [Nat.and_mod_two_pow, gapMask, Nat.mul_add_mod, Nat.mod_eq_of_lt hlow, Nat.and_two_pow_sub_one_eq_mod,
      Nat.mod_mod_of_dvd x (pow_dvd_pow 2 hlo)]
  rw [← hdiv, ← hmod, Nat.div_add_mod]

/-- R95: a word matches a row whose pattern is the opcode where its bits outside the gap are the opcode. -/
theorem and_gapMask_eq_iff (c : Word) {lo hi : Nat} (hop : op < 2 ^ 6) (hspan : 6 ≤ lo ∧ lo ≤ hi ∧ hi ≤ 32) :
    c &&& BitVec.ofNat 32 (gapMask lo hi) = BitVec.ofNat 32 op ↔ c.toNat % 2 ^ lo = op ∧ c.toNat / 2 ^ hi = 0 := by
  obtain ⟨h6, hlo, hhi⟩ := hspan
  have hand : (c &&& BitVec.ofNat 32 (gapMask lo hi)).toNat = 2 ^ hi * (c.toNat / 2 ^ hi) + c.toNat % 2 ^ lo := by
    rw [← and_gapMask c.isLt hlo hhi, BitVec.toNat_and, BitVec.toNat_ofNat]
    conv_lhs => rw [← Nat.mod_eq_of_lt c.isLt, ← Nat.and_mod_two_pow]
    exact Nat.mod_eq_of_lt (Nat.lt_of_le_of_lt Nat.and_le_left c.isLt)
  have hlt : op < 2 ^ hi := Nat.lt_of_lt_of_le hop (Nat.pow_le_pow_right (by decide) (h6.trans hlo))
  rw [← BitVec.toNat_inj, hand, BitVec.toNat_ofNat, Nat.mod_eq_of_lt (b := 2 ^ 32) (by omega)]
  constructor
  · intro h
    have hdiv : c.toNat / 2 ^ hi = 0 := by
      by_contra hne
      have hle := Nat.le_mul_of_pos_right (2 ^ hi) (Nat.pos_of_ne_zero hne)
      omega
    rw [hdiv, Nat.mul_zero, Nat.zero_add] at h
    exact ⟨h, hdiv⟩
  · rintro ⟨hmod, hdiv⟩
    rw [hdiv, hmod, Nat.mul_zero, Nat.zero_add]

theorem CommandForm.span_bounds (form : CommandForm) :
    6 ≤ form.span.1 ∧ form.span.1 ≤ form.span.2 ∧ form.span.2 ≤ 32 := by
  cases form <;> simp [CommandForm.span]

/-- The bits outside a form's span hold OP, RSV and the fields that the form does not use (R91). -/
theorem outside_span_iff (form : CommandForm) (hop : op < 2 ^ 6) :
    (c.toNat % 2 ^ form.span.1 = op ∧ c.toNat / 2 ^ form.span.2 = 0) ↔
      opField c = op ∧ rsvField c = 0 ∧ form.UnusedZero (wdField c) (mdField c) (vrField c) (slField c) := by
  have hc := c.isLt
  simp only [opField, rsvField, wdField, mdField, vrField, slField, wordField]
  cases form <;> simp only [CommandForm.span, CommandForm.UnusedZero] <;> omega

/-- R93, the second check: a word matches the row of an opcode where it has that OP and its RSV and the fields that the
row does not use are 0. -/
theorem match_iff (h : opcodeMap[op]? = some row) :
    c &&& row.mask = row.pattern ↔
      opField c = op ∧ rsvField c = 0 ∧ row.form.UnusedZero (wdField c) (mdField c) (vrField c) (slField c) := by
  have hop : op < 2 ^ 6 := (opcodeMap_lt h).trans (by decide)
  obtain ⟨hpattern, hmask, -⟩ := opcodeMap_fits h
  rw [hpattern, hmask, and_gapMask_eq_iff c hop row.form.span_bounds, outside_span_iff row.form hop]

theorem opField_of_match (h : opcodeMap[op]? = some row) (hc : c &&& row.mask = row.pattern) : opField c = op :=
  ((match_iff h).1 hc).1

theorem decodeMode_eq_command_iff {f : Mode → Instr} :
    decodeMode md f = .command i ↔ ∃ m, md = modeIndicator m ∧ i = f m := by
  simp only [← modeOfIndicator_eq_some_iff, decodeMode]
  cases modeOfIndicator md with
  | none => simp
  | some m => simp [eq_comm]

theorem command_eq_command_iff {j : Instr} : Decoded.command j = .command i ↔ i = j := by
  rw [Decoded.command.injEq, eq_comm]

theorem decodeForm_eq_command_iff {form : CommandForm} :
    decodeForm c form = .command i ↔ form.Names (wdField c) (mdField c) (vrField c) (slField c) i := by
  cases form with
  | plain j => exact command_eq_command_iff
  | width f => exact command_eq_command_iff
  | mode f => exact decodeMode_eq_command_iff
  | modeVersion f => exact decodeMode_eq_command_iff
  | slot f => exact command_eq_command_iff
  | version f => exact command_eq_command_iff

/-- R93: a word is the command that the row at its OP makes of its fields. -/
theorem decode_eq_command_iff :
    decode c = .command i ↔ ∃ row, opcodeMap[opField c]? = some row ∧ rsvField c = 0 ∧
      row.form.Makes (wdField c) (mdField c) (vrField c) (slField c) i := by
  unfold decode
  cases hrow : opcodeMap[opField c]? with
  | none => simp
  | some row =>
    have hmatch := match_iff (c := c) hrow
    simp only [Option.some.injEq, exists_eq_left', CommandForm.Makes, ← decodeForm_eq_command_iff]
    rw [eq_self, true_and] at hmatch
    rw [← and_assoc, ← hmatch]
    split
    · next h => simp [h]
    · next h => simp [h]

end Sys2Proof
end

section
/-! Decoding and encoding undo each other (R91, R95, R97). -/
namespace Sys2Proof

variable {op wd md vr sl : Nat} {i : Instr} {row : OpcodeRow} {c : Word}

/-- R91: the word of a command that a row makes packs the row's opcode and the fields, and it exists where they fit. -/
theorem encode_of_makes (hrow : opcodeMap[op]? = some row) (h : row.form.Makes wd md vr sl i) :
    encode i = packFields op wd md vr sl ∧ (i.wellFormed = true ↔ FieldsFit wd md vr sl) := by
  obtain ⟨-, -, hencodes⟩ := opcodeMap_fits hrow
  obtain ⟨hunused, hnames⟩ := h
  cases hform : row.form with rw [hform] at hencodes hunused hnames
  | plain j =>
    obtain ⟨rfl, rfl, rfl, rfl⟩ := hunused
    obtain ⟨hword, hwf⟩ := hencodes
    cases hnames
    exact ⟨hword, by simp [FieldsFit, hwf]⟩
  | width f =>
    obtain ⟨rfl, rfl, rfl⟩ := hunused
    obtain ⟨hword, hwf⟩ := hencodes wd
    cases hnames
    exact ⟨hword, by simp [FieldsFit, hwf, wdFits]⟩
  | mode f =>
    obtain ⟨rfl, rfl, rfl⟩ := hunused
    obtain ⟨m, rfl, rfl⟩ := hnames
    obtain ⟨hword, hwf⟩ := hencodes m
    exact ⟨hword, by simp [FieldsFit, hwf, Laws.OwnOpcode.modeIndicator_le]⟩
  | modeVersion f =>
    obtain ⟨rfl, rfl⟩ := hunused
    obtain ⟨m, rfl, rfl⟩ := hnames
    obtain ⟨hword, hwf⟩ := hencodes m vr
    exact ⟨hword, by simp [FieldsFit, hwf, vrFits, Laws.OwnOpcode.modeIndicator_le]⟩
  | slot f =>
    obtain ⟨rfl, rfl, rfl⟩ := hunused
    obtain ⟨hword, hwf⟩ := hencodes sl
    cases hnames
    exact ⟨hword, by simp [FieldsFit, hwf, slFits]⟩
  | version f =>
    obtain ⟨rfl, rfl, rfl⟩ := hunused
    obtain ⟨hword, hwf⟩ := hencodes vr
    cases hnames
    exact ⟨hword, by simp [FieldsFit, hwf, vrFits]⟩

/-- R95: every command is made by the row of its opcode. -/
theorem exists_row : ∀ i : Instr, ∃ row wd md vr sl,
    opcodeMap[Laws.OwnOpcode.opcode i]? = some row ∧ row.form.Makes wd md vr sl i
  | .nop => ⟨_, 0, 0, 0, 0, rfl, ⟨rfl, rfl, rfl, rfl⟩, rfl⟩
  | .bbClear => ⟨_, 0, 0, 0, 0, rfl, ⟨rfl, rfl, rfl, rfl⟩, rfl⟩
  | .bbAppend wd => ⟨_, wd, 0, 0, 0, rfl, ⟨rfl, rfl, rfl⟩, rfl⟩
  | .bbLen => ⟨_, 0, 0, 0, 0, rfl, ⟨rfl, rfl, rfl, rfl⟩, rfl⟩
  | .modeInd m => ⟨_, 0, _, 0, 0, rfl, ⟨rfl, rfl, rfl⟩, m, rfl, rfl⟩
  | .ccw m vr => ⟨_, 0, _, vr, 0, rfl, ⟨rfl, rfl⟩, m, rfl, rfl⟩
  | .segMake m => ⟨_, 0, _, 0, 0, rfl, ⟨rfl, rfl, rfl⟩, m, rfl, rfl⟩
  | .segMode sl => ⟨_, 0, 0, 0, sl, rfl, ⟨rfl, rfl, rfl⟩, rfl⟩
  | .segCount sl => ⟨_, 0, 0, 0, sl, rfl, ⟨rfl, rfl, rfl⟩, rfl⟩
  | .segData sl => ⟨_, 0, 0, 0, sl, rfl, ⟨rfl, rfl, rfl⟩, rfl⟩
  | .listClear => ⟨_, 0, 0, 0, 0, rfl, ⟨rfl, rfl, rfl, rfl⟩, rfl⟩
  | .listLen => ⟨_, 0, 0, 0, 0, rfl, ⟨rfl, rfl, rfl, rfl⟩, rfl⟩
  | .segNum => ⟨_, 0, 0, 0, 0, rfl, ⟨rfl, rfl, rfl, rfl⟩, rfl⟩
  | .segAlnum => ⟨_, 0, 0, 0, 0, rfl, ⟨rfl, rfl, rfl, rfl⟩, rfl⟩
  | .segBytes => ⟨_, 0, 0, 0, 0, rfl, ⟨rfl, rfl, rfl, rfl⟩, rfl⟩
  | .segEci => ⟨_, 0, 0, 0, 0, rfl, ⟨rfl, rfl, rfl, rfl⟩, rfl⟩
  | .segAuto => ⟨_, 0, 0, 0, 0, rfl, ⟨rfl, rfl, rfl, rfl⟩, rfl⟩
  | .totalBits vr => ⟨_, 0, 0, vr, 0, rfl, ⟨rfl, rfl, rfl⟩, rfl⟩
  | .outClear => ⟨_, 0, 0, 0, 0, rfl, ⟨rfl, rfl, rfl, rfl⟩, rfl⟩
  | .outLen => ⟨_, 0, 0, 0, 0, rfl, ⟨rfl, rfl, rfl, rfl⟩, rfl⟩
  | .serialize vr => ⟨_, 0, 0, vr, 0, rfl, ⟨rfl, rfl, rfl⟩, rfl⟩

/-- Settles O1: the word packs the operands from which the row of the command's opcode makes it, and its fields are
those operands. -/
theorem decodeOfEncodeIsTheCommand : Obligations.DecodeOfEncodeIsTheCommand := by
  intro i hi
  obtain ⟨row, wd, md, vr, sl, hrow, hmakes⟩ := exists_row i
  obtain ⟨hencode, hfit⟩ := encode_of_makes hrow hmakes
  have ho : Laws.OwnOpcode.opcode i ≤ 63 := (Nat.le_of_lt (opcodeMap_lt hrow)).trans (by decide)
  obtain ⟨hop, hrsv⟩ := packFields_op_rsv ho (hfit.1 hi)
  obtain ⟨hwd, hmd, hvr, hsl⟩ := packFields_operands ho (hfit.1 hi)
  rw [hencode, decode_eq_command_iff, hop, hwd, hmd, hvr, hsl]
  exact ⟨row, hrow, hrsv, hmakes⟩

/-- Settles O2: the row at the word's OP makes the command of the word's fields, and they pack into the word. -/
theorem encodeOfDecodeIsTheWord : Obligations.EncodeOfDecodeIsTheWord := by
  intro c i h
  obtain ⟨row, hrow, hrsv, hmakes⟩ := decode_eq_command_iff.1 h
  obtain ⟨hencode, hfit⟩ := encode_of_makes hrow hmakes
  exact ⟨hfit.2 (fieldsFit_of_word c), hencode.trans (packFields_of_fields hrsv)⟩

end Sys2Proof
end

section
/-! Which words are commands (R96). -/
namespace Sys2Proof

open Spec (Illegal usesWD usesMD usesVR usesSL)

variable {op wd md vr sl : Nat} {row : OpcodeRow} {c : Word}

theorem opField_eq (c : Word) : opField c = c.toNat % 64 := by simp [opField, wordField]
theorem wdField_eq (c : Word) : wdField c = c.toNat / 2 ^ 6 % 32 := rfl
theorem mdField_eq (c : Word) : mdField c = c.toNat / 2 ^ 11 % 16 := rfl
theorem vrField_eq (c : Word) : vrField c = c.toNat / 2 ^ 15 % 64 := rfl
theorem slField_eq (c : Word) : slField c = c.toNat / 2 ^ 21 % 64 := rfl
theorem rsvField_eq (c : Word) : rsvField c = c.toNat / 2 ^ 27 := Nat.mod_eq_of_lt (Nat.div_lt_of_lt_mul c.isLt)

/-- A word is a command or illegal, and not both. -/
theorem illegal_iff : Illegal c ↔ ¬∃ i, decode c = .command i := by
  unfold Illegal
  cases decode c with
  | command i => simp
  | illegal e => simp

/-- What R96 asks of the operands of an opcode in the map: 0 in the fields that its command does not use, and a mode code
in MD where the command uses it. -/
def LegalOperands (op wd md vr sl : Nat) : Prop :=
  (¬usesWD op → wd = 0) ∧ (¬usesMD op → md = 0) ∧ (¬usesVR op → vr = 0) ∧ (¬usesSL op → sl = 0) ∧
    (usesMD op → md ∈ [1, 2, 4, 7, 8])

/-- Each row of the map makes a command of the legal operands of its opcode, and of no others (R93, R95). -/
theorem exists_makes_iff (h : opcodeMap[op]? = some row) :
    (∃ i, row.form.Makes wd md vr sl i) ↔ LegalOperands op wd md vr sl := by
  have hop := opcodeMap_lt h
  rw [LegalOperands, ← exists_modeIndicator_iff]
  interval_cases op <;> cases h <;>
    simp [CommandForm.Makes, CommandForm.UnusedZero, CommandForm.Names, usesWD, usesMD, usesVR, usesSL, and_comm,
      and_assoc]

theorem exists_opcodeMap (h : op < 0x15) : ∃ row, opcodeMap[op]? = some row := ⟨_, List.getElem?_eq_getElem h⟩

/-- R97: the words that are commands. -/
theorem exists_decode_eq_command_iff : (∃ i, decode c = .command i) ↔
    opField c < 0x15 ∧ rsvField c = 0 ∧
      LegalOperands (opField c) (wdField c) (mdField c) (vrField c) (slField c) := by
  simp only [decode_eq_command_iff]
  constructor
  · rintro ⟨i, row, hrow, hrsv, hmakes⟩
    exact ⟨opcodeMap_lt hrow, hrsv, (exists_makes_iff hrow).1 ⟨i, hmakes⟩⟩
  · rintro ⟨hop, hrsv, hlegal⟩
    obtain ⟨row, hrow⟩ := exists_opcodeMap hop
    obtain ⟨i, hmakes⟩ := (exists_makes_iff hrow).2 hlegal
    exact ⟨i, row, hrow, hrsv, hmakes⟩

end Sys2Proof
end

section
/-! A CMD write by its word (R93, R96). -/
namespace Sys2Proof.Machine

open Spec (Illegal)

variable {s : State} {c : Word} {i : Instr} {rest : List HostEvent}

theorem issue_command (h : decode c = .command i) (s : State) : issue c s = exec i (s.setCmdlast c) := by
  simp only [issue, h]

theorem issue_illegal (h : Illegal c) (s : State) : issue c s = raise .illegalCommand (s.setCmdlast c) := by
  obtain ⟨e, he⟩ := h
  simp only [issue, he]

/-- Settles O7: a CMD write issues its word, and the word is the command. -/
theorem stepRunsTheDecodedCommand : Obligations.StepRunsTheDecodedCommand := fun _ _ _ _ hp hc =>
  (step_cmd hp).trans (issue_command hc _)

/-- Settles O3: the command words by their fields, negated; an illegal word by the error that it raises. -/
theorem illegalWordsAreTheReservedOnes : Obligations.IllegalWordsAreTheReservedOnes := by
  refine ⟨fun c => ?_, by decide, fun s c rest hp hc => (step_cmd hp).trans (issue_illegal hc _)⟩
  rw [illegal_iff, exists_decode_eq_command_iff]
  simp only [LegalOperands, opField_eq, rsvField_eq, wdField_eq, mdField_eq, vrField_eq, slField_eq, not_and_or,
    Classical.not_imp, Nat.not_lt, Nat.succ_le_iff, ne_eq]

end Sys2Proof.Machine
end

section
/-! The number of command words (R97). -/
namespace Sys2Proof

open Spec (usesWD usesMD usesVR usesSL)

variable {op wd md vr sl : Nat} {row : OpcodeRow} {c : Word}

/-- The values of a field: the given ones where the command uses it, else 0 alone. -/
def fieldValues (used : Prop) [Decidable used] (values : Finset Nat) : Finset Nat := if used then values else {0}

theorem card_fieldValues (used : Prop) [Decidable used] (values : Finset Nat) :
    (fieldValues used values).card = if used then values.card else 1 := by
  rw [fieldValues, apply_ite Finset.card, Finset.card_singleton]

theorem mem_fieldValues_iff {used : Prop} [Decidable used] {values : Finset Nat} {x n : Nat}
    (hfit : ∀ x ∈ values, x ≤ n) :
    x ∈ fieldValues used values ↔ x ≤ n ∧ (¬used → x = 0) ∧ (used → x ∈ values) := by
  unfold fieldValues
  split
  · next h => simpa [h] using hfit x
  · next h => simp +contextual [h]

theorem mem_fieldValues_range_iff {used : Prop} [Decidable used] {x n : Nat} :
    x ∈ fieldValues used (Finset.range (n + 1)) ↔ x ≤ n ∧ (¬used → x = 0) := by
  rw [mem_fieldValues_iff fun x hx => Finset.mem_range_succ_iff.1 hx, Finset.mem_range_succ_iff]
  tauto

/-- The operands of the command words of an opcode: the values of WD, MD, VR and SL. -/
def operandsAt (op : Nat) : Finset (Nat × Nat × Nat × Nat) :=
  fieldValues (op = 0x02) (Finset.range 32) ×ˢ
    fieldValues (op = 0x04 ∨ op = 0x05 ∨ op = 0x06) {1, 2, 4, 7, 8} ×ˢ
    fieldValues (op = 0x05 ∨ op = 0x11 ∨ op = 0x14) (Finset.range 64) ×ˢ
    fieldValues (op = 0x07 ∨ op = 0x08 ∨ op = 0x09) (Finset.range 64)

theorem mem_operandsAt_iff {x : Nat × Nat × Nat × Nat} : x ∈ operandsAt op ↔
    FieldsFit x.1 x.2.1 x.2.2.1 x.2.2.2 ∧ LegalOperands op x.1 x.2.1 x.2.2.1 x.2.2.2 := by
  have hmodes : ∀ md ∈ ({1, 2, 4, 7, 8} : Finset Nat), md ≤ 15 := by decide
  simp only [operandsAt, Finset.mem_product, mem_fieldValues_range_iff, mem_fieldValues_iff hmodes, FieldsFit,
    LegalOperands, usesWD, usesMD, usesVR, usesSL, Finset.mem_insert, Finset.mem_singleton, List.mem_cons,
    List.not_mem_nil, or_false]
  tauto

/-- The word of an opcode and four operands. -/
def packOperands (op : Nat) (x : Nat × Nat × Nat × Nat) : Word := packFields op x.1 x.2.1 x.2.2.1 x.2.2.2

/-- The four operands of a word. -/
def wordOperands (c : Word) : Nat × Nat × Nat × Nat := (wdField c, mdField c, vrField c, slField c)

theorem wordOperands_packOperands (hop : op < 0x15) {x : Nat × Nat × Nat × Nat} (hx : x ∈ operandsAt op) :
    wordOperands (packOperands op x) = x := by
  obtain ⟨hwd, hmd, hvr, hsl⟩ := packFields_operands (op := op) (by omega) (mem_operandsAt_iff.1 hx).1
  rw [wordOperands, packOperands, hwd, hmd, hvr, hsl]

/-- The command words of an opcode. -/
def wordsAt (op : Nat) : Finset Word := (operandsAt op).image (packOperands op)

theorem mem_wordsAt_iff (hop : op < 0x15) :
    c ∈ wordsAt op ↔ opField c = op ∧ rsvField c = 0 ∧ wordOperands c ∈ operandsAt op := by
  rw [wordsAt, Finset.mem_image]
  constructor
  · rintro ⟨x, hx, rfl⟩
    obtain ⟨hopcode, hrsv⟩ := packFields_op_rsv (op := op) (by omega) (mem_operandsAt_iff.1 hx).1
    exact ⟨hopcode, hrsv, by rwa [wordOperands_packOperands hop hx]⟩
  · rintro ⟨rfl, hrsv, hx⟩
    exact ⟨_, hx, packFields_of_fields hrsv⟩

theorem opField_of_mem_wordsAt (hop : op < 0x15) (hc : c ∈ wordsAt op) : opField c = op :=
  ((mem_wordsAt_iff hop).1 hc).1

theorem card_wordsAt (hop : op < 0x15) : (wordsAt op).card = (operandsAt op).card :=
  Finset.card_image_of_injOn <| Set.LeftInvOn.injOn fun _ hx => wordOperands_packOperands hop hx

/-- The words of all the rows. -/
def legalWords : Finset Word := (Finset.range 0x15).biUnion wordsAt

theorem mem_legalWords_iff : c ∈ legalWords ↔ ∃ i, decode c = .command i := by
  rw [exists_decode_eq_command_iff, legalWords, Finset.mem_biUnion]
  have hfit := fieldsFit_of_word c
  constructor
  · rintro ⟨op, hrange, hc⟩
    have hop := Finset.mem_range.1 hrange
    obtain ⟨rfl, hrsv, hx⟩ := (mem_wordsAt_iff hop).1 hc
    obtain ⟨-, hlegal⟩ := mem_operandsAt_iff.1 hx
    exact ⟨hop, hrsv, hlegal⟩
  · rintro ⟨hop, hrsv, hlegal⟩
    exact ⟨_, Finset.mem_range.2 hop, (mem_wordsAt_iff hop).2 ⟨rfl, hrsv, mem_operandsAt_iff.2 ⟨hfit, hlegal⟩⟩⟩

/-- R97: the words of two opcodes differ in OP, so the rows' numbers of words add up. -/
theorem card_legalWords : legalWords.card = 694 := by
  have hdisjoint : Set.PairwiseDisjoint (Finset.range 0x15 : Set Nat) wordsAt := by
    intro j hj k hk hne
    refine Finset.disjoint_left.2 fun c hcj hck => hne ?_
    exact (opField_of_mem_wordsAt (Finset.mem_range.1 hj) hcj).symm.trans
      (opField_of_mem_wordsAt (Finset.mem_range.1 hk) hck)
  calc legalWords.card
      = ∑ op ∈ Finset.range 0x15, (wordsAt op).card := Finset.card_biUnion hdisjoint
    _ = ∑ op ∈ Finset.range 0x15, (operandsAt op).card :=
        Finset.sum_congr rfl fun _ hop => card_wordsAt (Finset.mem_range.1 hop)
    _ = 694 := by simp [operandsAt, card_fieldValues, Finset.sum_range_succ]

/-- A word that decodes to a command matches the row at its OP. -/
theorem exists_match_of_decode {i : Instr} (h : decode c = .command i) :
    ∃ (op : Nat) (row : OpcodeRow), opcodeMap[op]? = some row ∧ c &&& row.mask = row.pattern := by
  obtain ⟨row, hrow, hrsv, hunused, -⟩ := decode_eq_command_iff.1 h
  exact ⟨_, row, hrow, (match_iff hrow).2 ⟨rfl, hrsv, hunused⟩⟩

/-- Settles O4: a command's word matches the row at its OP, a match fixes OP, and the words are counted opcode by
opcode. -/
theorem legalWordsNumberSixHundredNinetyFour : Obligations.LegalWordsNumberSixHundredNinetyFour := by
  refine ⟨fun c => ?total, fun j k r q c hr hq hcr hcq => ?disjoint, ?count⟩
  case total =>
    rw [illegal_iff, Classical.or_iff_not_imp_left, not_not]
    rintro ⟨i, hi⟩
    obtain ⟨op, row, hmatch⟩ := exists_match_of_decode hi
    exact ⟨i, op, row, hi, hmatch⟩
  case disjoint => exact (opField_of_match hr hcr).symm.trans (opField_of_match hq hcq)
  case count =>
    exact ⟨legalWords.toList, legalWords.nodup_toList, by rw [Finset.length_toList, card_legalWords],
      fun c => by rw [Finset.mem_toList, mem_legalWords_iff]⟩

end Sys2Proof
end

section
/-! The spec's assembler lines (R100 to R102). -/
namespace Sys2Proof.Machine

open Spec (Listed)

/-- A line that assembles to the write of a command's word: decoding the word gives the command back. -/
theorem listed_of_line {line : String} {c : Word} {i : Instr} (hline : assembleLine line = some [.write 0x0005 c])
    (hword : encode i = c) (hi : i.wellFormed = true) : Listed line c i :=
  ⟨hline, hword ▸ decodeOfEncodeIsTheCommand i hi, hword⟩

/-- Settles O5: the assembler and the encoder by running them, the decoder by the round trip. -/
theorem commonWordsAreTheListedOnes : Obligations.CommonWordsAreTheListedOnes := by
  refine ⟨?_, ?_, ?_, ?_, ?_, ?_, ?_, ?_, ?_, ?_, ?_, ?_, ?_, ?_, ?_⟩
  all_goals exact listed_of_line (by decide) rfl rfl

/-- Settles O59: each line by running the assembler on it. -/
theorem assemblerLinesGiveTheirAccesses : Obligations.AssemblerLinesGiveTheirAccesses := by
  unfold Obligations.AssemblerLinesGiveTheirAccesses
  decide

end Sys2Proof.Machine
end

section
/-! The words of one opcode (R93, R95): the row at OP decides, by the bits outside its fields. -/
namespace Sys2Proof

open Spec (Illegal PlainWords WidthWords)

variable {op : Nat} {row : OpcodeRow} {c p m : Word} {i : Instr}

/-- A word with the OP of a row is the command of the row's fields where every other bit above OP is 0, else illegal. -/
theorem decode_of_row (h : opcodeMap[op]? = some row) (hop : c.toNat % 64 = op) :
    decode c = if c.toNat % 2 ^ row.form.span.1 = op ∧ c.toNat / 2 ^ row.form.span.2 = 0 then decodeForm c row.form
      else .illegal .unusedFieldNonzero := by
  have hlt : op < 2 ^ 6 := (opcodeMap_lt h).trans (by decide)
  obtain ⟨hpattern, hmask, -⟩ := opcodeMap_fits h
  simp only [decode, opField_eq, hop, h, hpattern, hmask, and_gapMask_eq_iff c hlt row.form.span_bounds]

theorem plainWords_of_row (h : opcodeMap[op]? = some ⟨p, m, .plain i⟩) : PlainWords op i := by
  intro c hop
  have hword : c.toNat % 2 ^ 6 = op ∧ c.toNat / 2 ^ 6 = 0 ↔ c.toNat = op := by omega
  have hdecode := decode_of_row h hop
  simp only [CommandForm.span, hword] at hdecode
  exact ⟨fun hc => hdecode.trans (if_pos hc), fun hc => ⟨_, hdecode.trans (if_neg hc)⟩⟩

theorem widthWords_of_row {f : Nat → Instr} (h : opcodeMap[op]? = some ⟨p, m, .width f⟩) : WidthWords op f := by
  intro c hop
  have hdecode := decode_of_row h hop
  simp only [CommandForm.span, Nat.reducePow, hop, true_and] at hdecode
  exact ⟨fun hc => hdecode.trans (if_pos hc), fun hc => ⟨_, hdecode.trans (if_neg hc)⟩⟩

end Sys2Proof
end

section
/-! The commands that clear or measure a buffer, and BB_APPEND (R120 to R122, R144, R145, R192, R193). -/
namespace Sys2Proof.Machine

variable {s t : State} {n cap : Nat}

/-- Settles O38: the words by the rows of the map, and each command is a success after one write. -/
theorem clearCommandsEmptyTheirTarget : Obligations.ClearCommandsEmptyTheirTarget :=
  ⟨plainWords_of_row rfl, plainWords_of_row rfl, plainWords_of_row rfl, fun _ => ⟨rfl, rfl, rfl⟩⟩

/-- R8: the largest capacities. -/
theorem capacities_le_of_paramsValid {p : Config.Params} (h : paramsValid p = true) :
    p.wBits ≤ 32768 ∧ p.oBits ≤ 65536 ∧ p.nSeg ≤ 64 := by
  simp only [paramsValid, Bool.and_eq_true, decide_eq_true_eq] at h
  omega

/-- A length within a capacity that 32 bits hold is what RES holds after a command that returns it. -/
theorem doneRes_toNat (hn : n ≤ cap) (hcap : cap < 2 ^ 32) (h : done (s.setRes (word32 n)) = .next t) :
    t.res.toNat = n ∧ t.res.toNat ≤ cap := by
  have hres : t.res.toNat = n := by
    rw [done_next h, State.setStatus_res, State.setRes_res, BitVec.toNat_ofNat,
      Nat.mod_eq_of_lt (Nat.lt_of_le_of_lt hn hcap)]
  exact ⟨hres, hres.trans_le hn⟩

/-- Settles O39: under the invariant each length is within its capacity, so RES holds it whole. -/
theorem lengthCommandsReturnTheLength : Obligations.LengthCommandsReturnTheLength := by
  refine ⟨plainWords_of_row rfl, plainWords_of_row rfl, plainWords_of_row rfl, fun _ => ⟨rfl, rfl, rfl⟩,
    fun s t hinv => ?_⟩
  obtain ⟨hw, ho, hn⟩ := capacities_le_of_paramsValid hinv.params
  exact ⟨doneRes_toNat hinv.w (by omega), doneRes_toNat hinv.segcnt (by omega), doneRes_toNat hinv.out (by omega)⟩

/-- A nonnegative signed value is the unsigned value (R10). -/
theorem toNat_toInt_of_nonneg {v : Word} (h : 0 ≤ v.toInt) : v.toInt.toNat = v.toNat := by
  rw [BitVec.toInt_eq_toNat_of_lt (BitVec.toInt_pos_iff.1 h), Int.toNat_natCast]

/-- Settles O40: the checks of R121 in their order, each by the branch that it takes. -/
theorem bbAppendAppendsTheValueOrFails : Obligations.BbAppendAppendsTheValueOrFails := by
  refine ⟨widthWords_of_row rfl, fun s n => ⟨fun hbad => if_pos hbad, fun hnonneg hlt hfull => ?full,
    fun hnonneg hlt hfit => ?fits⟩⟩
  all_goals have hgood := not_or.2 ⟨Int.not_lt.2 hnonneg, Int.not_le.2 hlt⟩
  case full => exact (if_neg hgood).trans (if_pos hfull)
  case fits =>
    rw [← toNat_toInt_of_nonneg hnonneg]
    exact (if_neg hgood).trans (if_neg (Nat.not_lt.2 hfit))

end Sys2Proof.Machine
end

section
/-! What the commands that write W leave unchanged (R120, R121, R143, R222). -/
namespace Sys2Proof.Machine

open Spec (HostStateKept)

variable {s t : State}

/-- No command writes what the host owns, and ERRS changes with an error alone, which sets it (R222 to R224). -/
theorem exec_hostStateKept {i : Instr} (h : exec i s = .next t) : HostStateKept s t := by
  obtain (⟨e, he, hraise⟩ | ⟨w, out, segs, res, hdone⟩) | ⟨-, hcap⟩ := exec_cases i s
  · rw [raise_next (hraise.symm.trans h)]
    exact ⟨rfl, rfl, rfl, rfl, rfl, rfl, fun _ => rfl, fun hnone => absurd hnone he, fun _ => rfl⟩
  · rw [done_next (hdone.symm.trans h)]
    exact ⟨rfl, rfl, rfl, rfl, rfl, rfl, id, fun _ => rfl, fun _ => rfl⟩
  · rw [capacityExceeded_next (hcap.symm.trans h)]
    exact ⟨rfl, rfl, rfl, rfl, rfl, rfl, id, fun _ => rfl, fun _ => rfl⟩

/-- BB_APPEND writes W and STATUS alone. -/
theorem execBbAppend_frame {n : Nat} (h : execBbAppend n s = .next t) : ∃ w st, t = (s.setW w).setStatus st := by
  unfold execBbAppend at h
  split at h
  · exact ⟨s.w, _, raise_next h⟩
  · split at h
    · exact ⟨s.w, _, raise_next h⟩
    · exact ⟨_, _, done_next h⟩

/-- SEG_DATA writes W, RES and STATUS alone. -/
theorem execSegData_frame {sl : Nat} (h : execSegData sl s = .next t) :
    ∃ w res st, t = ((s.setW w).setRes res).setStatus st := by
  obtain ⟨-, he⟩ | ⟨g, -, he⟩ := withSlot_cases sl s fun g => (s.setW g.data).setRes (word32 g.data.length)
  · exact ⟨s.w, s.res, _, raise_next (he.symm.trans h)⟩
  · exact ⟨_, _, _, done_next (he.symm.trans h)⟩

/-- Settles O56: the host's state by the frame of every command, the rest by what each of the three writes. -/
theorem frameOfTheWorkingBufferCommands : Obligations.FrameOfTheWorkingBufferCommands := by
  intro i s t hi h
  refine ⟨exec_hostStateKept h, ?_⟩
  obtain rfl | ⟨n, rfl⟩ | ⟨sl, rfl⟩ := hi
  · rw [done_next h]
    exact ⟨rfl, rfl, fun _ => rfl⟩
  · obtain ⟨w, st, rfl⟩ := execBbAppend_frame h
    exact ⟨rfl, rfl, fun _ => rfl⟩
  · obtain ⟨w, res, st, rfl⟩ := execSegData_frame h
    exact ⟨rfl, rfl, fun hsl => absurd rfl (hsl sl)⟩

end Sys2Proof.Machine
end

section
/-! The words of the opcodes that use MD (R93, R95), with VR or alone. -/
namespace Sys2Proof

open Spec (Illegal ModeWords ModeVersionWords)

variable {op md : Nat} {c p mask : Word}

/-- R93, the third check: the decoder refuses an MD that names no mode. -/
theorem decodeMode_of_not_mem (h : md ∉ [1, 2, 4, 7, 8]) (f : Mode → Instr) :
    decodeMode md f = .illegal .notAMode := by
  obtain ⟨-, -, hnone⟩ := modeCodesNameTheFiveModes
  simp only [decodeMode, hnone md h]

/-- What the words with a mode operand stand for, where `Unused` says that the fields not used are 0: MD names the mode of
the command, and every other word is illegal. -/
theorem decode_of_modeField {Unused : Prop} [Decidable Unused] {f : Mode → Instr}
    (h : decode c = if Unused then decodeMode (mdField c) f else .illegal .unusedFieldNonzero) :
    (Unused → (∀ m, mdField c = modeIndicator m → decode c = .command (f m)) ∧
      (mdField c ∉ [1, 2, 4, 7, 8] → Illegal c)) ∧ (¬Unused → Illegal c) := by
  have hmode (hunused : Unused) : decode c = decodeMode (mdField c) f := h.trans (if_pos hunused)
  refine ⟨fun hunused => ⟨fun m hm => ?_, fun hmd => ?_⟩, fun hunused => ⟨_, h.trans (if_neg hunused)⟩⟩
  · exact (hmode hunused).trans (decodeMode_eq_command_iff.2 ⟨m, hm, rfl⟩)
  · exact ⟨_, (hmode hunused).trans (decodeMode_of_not_mem hmd f)⟩

/-- The bits below MD are OP where WD is 0. -/
theorem low_eq_op_iff (hop : c.toNat % 64 = op) : c.toNat % 2 ^ 11 = op ↔ c.toNat / 2 ^ 6 % 32 = 0 := by omega

theorem modeWords_of_row {f : Mode → Instr} (h : opcodeMap[op]? = some ⟨p, mask, .mode f⟩) : ModeWords op f := by
  intro c hop
  have hdecode := decode_of_row h hop
  simp only [CommandForm.span, low_eq_op_iff hop] at hdecode
  exact decode_of_modeField hdecode

theorem modeVersionWords_of_row {f : Mode → Nat → Instr} (h : opcodeMap[op]? = some ⟨p, mask, .modeVersion f⟩) :
    ModeVersionWords op f := by
  intro c hop
  have hdecode := decode_of_row h hop
  simp only [CommandForm.span, low_eq_op_iff hop] at hdecode
  exact decode_of_modeField hdecode

end Sys2Proof
end

section
/-! The count-field widths (R131, R132) and the commands that read the mode table (R133, R134). -/
namespace Sys2Proof.Machine

open Spec (tableRow ok)

variable {p : Config.Params} {r : Config.CcwRow} {v : Nat}

/-- Settles O41: the words by the row of the map, and the command is a success after one write of RES. -/
theorem modeIndReturnsTheIndicator : Obligations.ModeIndReturnsTheIndicator :=
  ⟨modeWords_of_row rfl, fun _ _ => rfl⟩

theorem tableRow_eq_ccwRow (t : Config.CcwTable) (m : Mode) : tableRow t m = ccwRow t m := by cases m <;> rfl

/-- R132: versions 1 to 9 use the first entry. -/
theorem ccw_of_le_nine (p : Config.Params) (m : Mode) (h : v ≤ 9) : ccw p m v = (ccwRow p.ccwTable m).index0 := by
  rw [ccw, widx, if_pos h]
  rfl

/-- R132: versions 10 to 26 use the second entry. -/
theorem ccw_of_le_twentySix (p : Config.Params) (m : Mode) (h : 10 ≤ v) (h' : v ≤ 26) :
    ccw p m v = (ccwRow p.ccwTable m).index1 := by
  rw [ccw, widx, if_neg (Nat.not_le.2 h), if_pos h']
  rfl

/-- R132: versions from 27 use the third entry. -/
theorem ccw_of_twentySeven_le (p : Config.Params) (m : Mode) (h : 27 ≤ v) :
    ccw p m v = (ccwRow p.ccwTable m).index2 := by
  rw [ccw, widx, if_neg (by omega), if_neg (Nat.not_le.2 h)]
  rfl

/-- R134: at a version of the standard CCW returns the width. -/
theorem exec_ccw_of_legal (s : State) (m : Mode) (h : 1 ≤ v) (h' : v ≤ 40) :
    exec (.ccw m v) s = .next { s with res := BitVec.ofNat 32 (ccw s.params m v), status := ok s } :=
  if_pos ((legalVersion_iff v).2 ⟨h, h'⟩)

/-- R134: CCW at every other version. -/
theorem exec_ccw_of_illegal (s : State) (m : Mode) (h : ¬(1 ≤ v ∧ v ≤ 40)) :
    exec (.ccw m v) s = raise .badVersion s :=
  if_neg (mt (legalVersion_iff v).1 h)

/-- Settles O42: the words by the row of the map, then the version check, and the entry of the version's range. -/
theorem ccwReturnsTheFieldWidth : Obligations.CcwReturnsTheFieldWidth := by
  refine ⟨modeVersionWords_of_row rfl, fun s m v => ⟨fun hbad => ?bad, fun hlo hhi => ?first, fun hlo hhi => ?second,
    fun hlo hhi => ?third⟩⟩
  case bad => exact exec_ccw_of_illegal s m (by omega)
  case first => rw [exec_ccw_of_legal s m hlo (by omega), ccw_of_le_nine _ _ hhi, tableRow_eq_ccwRow]
  case second =>
    rw [exec_ccw_of_legal s m (by omega) (by omega), ccw_of_le_twentySix _ _ hlo hhi, tableRow_eq_ccwRow]
  case third => rw [exec_ccw_of_legal s m (by omega) hhi, ccw_of_twentySeven_le _ _ hlo, tableRow_eq_ccwRow]

/-- R131: what a legal table fixes, and the bound on the row of each mode. -/
theorem ccwTable_of_paramsValid (h : paramsValid p = true) :
    p.ccwTable.numeric.index0 = 10 ∧ p.ccwTable.eci = ⟨0, 0, 0⟩ ∧
      ∀ m, ccwRowValid (ccwRow p.ccwTable m) = true := by
  simp only [paramsValid, ccwTableValid, Bool.and_eq_true, decide_eq_true_eq] at h
  obtain ⟨-, ⟨⟨⟨⟨⟨hten, hzero⟩, hnumeric⟩, halnum⟩, hbyte⟩, hkanji⟩, heci⟩ := h
  refine ⟨hten, hzero, fun m => ?_⟩
  cases m with
  | numeric => exact hnumeric
  | alphanumeric => exact halnum
  | byte => exact hbyte
  | kanji => exact hkanji
  | eci => exact heci

/-- A width index selects one of a row's three entries. -/
theorem ccwEntry_mem (r : Config.CcwRow) : ∀ index, ccwEntry r index ∈ [r.index0, r.index1, r.index2]
  | 0 => by simp [ccwEntry]
  | 1 => by simp [ccwEntry]
  | _ + 2 => by simp [ccwEntry]

theorem ccwEntry_le (h : ccwRowValid r = true) (index : Nat) : ccwEntry r index ≤ 31 := by
  have hmem := ccwEntry_mem r index
  simp only [ccwRowValid, Bool.and_eq_true, decide_eq_true_eq] at h
  simp only [List.mem_cons, List.not_mem_nil, or_false] at hmem
  omega

theorem ccwEntry_zero_row (index : Nat) : ccwEntry ⟨0, 0, 0⟩ index = 0 := by
  simpa using ccwEntry_mem ⟨0, 0, 0⟩ index

/-- Settles O36: every width is an entry of the mode's row, which the constraints on the table bound or fix. -/
theorem countFieldWidthsMeetTheConstraints : Obligations.CountFieldWidthsMeetTheConstraints := by
  intro p m ver hvalid
  obtain ⟨hten, hzero, hrows⟩ := ccwTable_of_paramsValid hvalid
  refine ⟨ccwEntry_le (hrows m) _, ?eci, fun hver => (ccw_of_le_nine p .numeric hver).trans hten⟩
  rw [ccw, ccwRow_eci, hzero, ccwEntry_zero_row]

end Sys2Proof.Machine
end

section
/-! The words of the opcodes that use SL alone (R93, R95). -/
namespace Sys2Proof

open Spec (SlotWords)

theorem slotWords_of_row {op : Nat} {p mask : Word} {f : Nat → Instr}
    (h : opcodeMap[op]? = some ⟨p, mask, .slot f⟩) : SlotWords op f := by
  intro c hop
  have hlow : c.toNat % 2 ^ 21 = op ↔ c.toNat / 2 ^ 6 % 2 ^ 15 = 0 := by omega
  have hdecode := decode_of_row h hop
  simp only [CommandForm.span, hlow] at hdecode
  exact ⟨fun hc => hdecode.trans (if_pos hc), fun hc => ⟨_, hdecode.trans (if_neg hc)⟩⟩

end Sys2Proof
end

section
/-! SEG_MAKE and the commands that read a slot (R140 to R143). -/
namespace Sys2Proof.Machine

variable {s : State} {sl : Nat}

/-- R140: SEG_MAKE of a nonnegative count into a list with room. -/
theorem execSegMake_of_room (md : Mode) (himm : 0 ≤ s.imm.toInt) (hroom : s.segs.length ≠ s.params.nSeg) :
    execSegMake md s = done ((addseg md s.imm.toNat s.w s).setRes (word32 (s.segs.length + 1))) := by
  obtain ⟨hneg, -⟩ | ⟨hfull, -⟩ | ⟨-, -, he⟩ := execSegMake_cases md s
  · exact absurd himm (Int.not_le.2 hneg)
  · exact absurd hfull hroom
  · rw [he, toNat_toInt_of_nonneg himm]

/-- Settles O43: the checks of R140 in their order, each by the branch that it takes. -/
theorem segMakeAppendsTheSegment : Obligations.SegMakeAppendsTheSegment := by
  refine ⟨modeWords_of_row rfl, fun s m => ⟨fun hneg => if_pos hneg, fun himm hfull => ?full, fun himm hroom => ?room⟩⟩
  case full => exact (if_neg (Int.not_lt.2 himm)).trans (if_pos hfull)
  case room => exact execSegMake_of_room m himm hroom

/-- R141: a slot at or past the end of the list. -/
theorem withSlot_of_length_le (h : s.segs.length ≤ sl) (f : Segment → State) :
    withSlot sl s f = raise .badSlot s := by
  simp only [withSlot, List.getElem?_eq_none h]

/-- R141: a slot that the list has. -/
theorem withSlot_of_slot {g : Segment} (h : s.segs[sl]? = some g) (f : Segment → State) :
    withSlot sl s f = done (f g) := by
  simp only [withSlot, h]

/-- Settles O44: the words by the rows of the map, and each getter by whether the list has the slot. -/
theorem gettersReadTheirSlotOrFail : Obligations.GettersReadTheirSlotOrFail :=
  ⟨slotWords_of_row rfl, slotWords_of_row rfl, slotWords_of_row rfl, fun _ _ =>
    ⟨fun h => ⟨withSlot_of_length_le h _, withSlot_of_length_le h _, withSlot_of_length_le h _⟩,
      fun _ h => ⟨withSlot_of_slot h _, withSlot_of_slot h _, withSlot_of_slot h _⟩⟩⟩

end Sys2Proof.Machine
end

section
/-! What the commands on the segment list leave unchanged (R140, R144, R160, R222). -/
namespace Sys2Proof.Machine

variable {s t : State}

/-- The outcome of a factory's body on a payload: FactoryCommit of it, or InvalidArgument (R161 to R165). -/
def CommitsOrRefuses (s : State) (o : Host.Outcome State Fault Refusal) : Prop :=
  (∃ m n b, o = factoryCommit m n b s) ∨ o = raise .invalidArgument s

theorem numericBody_commitsOrRefuses (s : State) : CommitsOrRefuses s (numericBody s) := by
  unfold numericBody
  split
  · exact .inl ⟨_, _, _, rfl⟩
  · exact .inr rfl

theorem alnumBody_commitsOrRefuses (s : State) : CommitsOrRefuses s (alnumBody s) := by
  unfold alnumBody
  split
  · exact .inl ⟨_, _, _, rfl⟩
  · exact .inr rfl

theorem bytesBody_commitsOrRefuses (s : State) : CommitsOrRefuses s (bytesBody s) := .inl ⟨_, _, _, rfl⟩

theorem execSegEci_commitsOrRefuses (s : State) : CommitsOrRefuses s (execSegEci s) := by
  unfold execSegEci
  split
  · exact .inr rfl
  · exact .inl ⟨_, _, _, rfl⟩

/-- R166: SEG_AUTO of the empty text makes no segment; else it runs the body of one of three factories. -/
theorem execSegAuto_cases (s : State) :
    execSegAuto s = done ((s.setW []).setRes (word32 s.segcnt)) ∨ CommitsOrRefuses s (execSegAuto s) := by
  unfold execSegAuto
  split
  · exact .inl rfl
  · right
    split
    · exact numericBody_commitsOrRefuses s
    · split
      · exact alnumBody_commitsOrRefuses s
      · exact bytesBody_commitsOrRefuses s

/-- The next state is `s` after writes of W, the segment list, RES and STATUS alone. -/
def WritesListAndW (s t : State) : Prop :=
  ∃ w segs res st, t = (((s.setW w).setSegs segs).setRes res).setStatus st

theorem CommitsOrRefuses.writesListAndW {o : Host.Outcome State Fault Refusal} (ho : CommitsOrRefuses s o)
    (h : o = .next t) : WritesListAndW s t := by
  obtain ⟨m, n, b, rfl⟩ | rfl := ho
  · obtain ⟨-, he⟩ | ⟨-, he⟩ | ⟨-, -, he⟩ := factoryCommit_cases m n b s <;> rw [he] at h
    · exact ⟨s.w, s.segs, s.res, _, raise_next h⟩
    · exact ⟨s.w, s.segs, s.res, _, raise_next h⟩
    · exact ⟨b, _, _, _, done_next h⟩
  · exact ⟨s.w, s.segs, s.res, _, raise_next h⟩

theorem execSegAuto_writesListAndW (h : execSegAuto s = .next t) : WritesListAndW s t := by
  obtain he | ho := execSegAuto_cases s
  · exact ⟨[], s.segs, _, _, done_next (he.symm.trans h)⟩
  · exact ho.writesListAndW h

/-- Each factory writes W, the segment list, RES and STATUS alone. -/
theorem factory_writesListAndW {i : Instr} (hi : i ∈ [.segNum, .segAlnum, .segBytes, .segEci, .segAuto])
    (h : exec i s = .next t) : WritesListAndW s t := by
  simp only [List.mem_cons, List.not_mem_nil, or_false] at hi
  obtain rfl | rfl | rfl | rfl | rfl := hi
  · exact (numericBody_commitsOrRefuses s).writesListAndW h
  · exact (alnumBody_commitsOrRefuses s).writesListAndW h
  · exact (bytesBody_commitsOrRefuses s).writesListAndW h
  · exact (execSegEci_commitsOrRefuses s).writesListAndW h
  · exact execSegAuto_writesListAndW h

/-- SEG_MAKE writes the segment list, RES and STATUS alone. -/
theorem execSegMake_frame {m : Mode} (h : execSegMake m s = .next t) :
    ∃ segs res st, t = ((s.setSegs segs).setRes res).setStatus st := by
  obtain ⟨-, he⟩ | ⟨-, he⟩ | ⟨-, -, he⟩ := execSegMake_cases m s <;> rw [he] at h
  · exact ⟨s.segs, s.res, _, raise_next h⟩
  · exact ⟨s.segs, s.res, _, raise_next h⟩
  · exact ⟨_, _, _, done_next h⟩

/-- Settles O57: the host's state by the frame of every command, the rest by what LIST_CLEAR, the factories and SEG_MAKE
write. -/
theorem frameOfTheSegmentListCommands : Obligations.FrameOfTheSegmentListCommands := by
  intro i s t hi h
  refine ⟨exec_hostStateKept h, ?_⟩
  rw [List.mem_cons] at hi
  obtain (rfl | hfactory) | ⟨m, rfl⟩ := hi
  · rw [done_next h]
    exact ⟨rfl, fun _ => rfl, fun _ => ⟨rfl, rfl⟩⟩
  · obtain ⟨w, segs, res, st, rfl⟩ := factory_writesListAndW hfactory h
    exact ⟨rfl, fun ⟨m, hm⟩ => by simp [hm] at hfactory, fun hclear => by simp [hclear] at hfactory⟩
  · obtain ⟨segs, res, st, rfl⟩ := execSegMake_frame h
    exact ⟨rfl, fun _ => rfl, fun hclear => nomatch hclear⟩

end Sys2Proof.Machine
end

section
/-! The segment list over a run (R147): what a step does to a slot and to the accesses to come, then any number of
steps. -/
namespace Sys2Proof.Machine

variable {s t : State} {c : Word} {k n : Nat} {g : Segment}

/-- What every step keeps holds after a run. -/
theorem run_induction {M : Host.Core} {P : M.State → Prop} (hstep : ∀ {s t}, P s → M.step s = .next t → P t)
    {s t : M.State} (hs : P s) (hrun : M.run n s = .next t) : P t := by
  induction n generalizing s with
  | zero => exact Host.Outcome.next.inj hrun ▸ hs
  | succ n ih =>
    rw [Host.Core.run] at hrun
    split at hrun
    · next u hu => exact ih (hstep hs hu) hrun
    · cases hrun
    · cases hrun

/-- A step takes the first of the accesses to come (R74). -/
theorem step_pending (h : step s = .next t) : t.pending = s.pending.tail := by
  obtain ⟨hp, rfl⟩ | ⟨a, rest, hp, rfl⟩ | ⟨rest, hp, rfl⟩ | ⟨c, rest, hp, hc⟩ | ⟨d, rest, hp, rfl⟩ | ⟨d, rest, hp, rfl⟩ |
    ⟨d, rest, hp, rfl⟩ | ⟨a, d, rest, hp, -, -, rfl⟩ | ⟨a, d, rest, hp, -, rfl⟩ := step_cases h
  case inr.inr.inr.inl =>
    obtain ⟨w, out, segs, res, st, rfl⟩ := issue_frame hc
    simp [hp]
  all_goals simp [hp]

/-- Only one word is LIST_CLEAR (R95). -/
theorem eq_of_decode_listClear (h : decode c = .command .listClear) : c = 0x0000000A :=
  (encodeOfDecodeIsTheWord c .listClear h).2.symm

/-- A CMD write of any other word than LIST_CLEAR's keeps the segment in every slot. -/
theorem issue_keeps_slot (hc : c ≠ 0x0000000A) (h : issue c s = .next t) (hk : s.segs[k]? = some g) :
    t.segs[k]? = some g := by
  obtain ⟨i, hi, he⟩ | ⟨e, -, he⟩ := issue_cases c s <;> rw [he] at h
  · have hne : i ≠ .listClear := fun hclear => hc (eq_of_decode_listClear (hclear ▸ hi))
    exact exec_keeps_slot hne h hk
  · rw [raise_next h]
    exact hk

/-- Neither reset nor a LIST_CLEAR is among the accesses to come. -/
def NeverClears (s : State) : Prop := ∀ e ∈ s.pending, e ≠ .reset ∧ e ≠ .write 0x0005 0x0000000A

theorem step_keeps_neverClears (hs : NeverClears s) (h : step s = .next t) : NeverClears t := fun e he =>
  hs e (List.mem_of_mem_tail (step_pending h ▸ he))

/-- Without reset and LIST_CLEAR a step keeps the segment in every slot. -/
theorem step_keeps_slot (hs : NeverClears s) (h : step s = .next t) (hk : s.segs[k]? = some g) :
    t.segs[k]? = some g := by
  obtain ⟨-, rfl⟩ | ⟨a, rest, -, rfl⟩ | ⟨rest, hp, -⟩ | ⟨c, rest, hp, hc⟩ | ⟨d, rest, -, rfl⟩ | ⟨d, rest, -, rfl⟩ |
    ⟨d, rest, -, rfl⟩ | ⟨a, d, rest, -, -, -, rfl⟩ | ⟨a, d, rest, -, -, rfl⟩ := step_cases h
  · exact hk
  · exact hk
  · exact absurd rfl (hs .reset (by simp [hp])).1
  · have hword : c ≠ 0x0000000A := fun hclear => (hs (.write 0x0005 c) (by simp [hp])).2 (hclear ▸ rfl)
    exact issue_keeps_slot hword hc hk
  · exact hk
  · exact hk
  · exact hk
  · rwa [inWriteWord_segs]
  · exact hk

/-- The slot `k` holds the segment `g`, and no access to come clears the list. -/
def HoldsSlot (k : Nat) (g : Segment) (s : State) : Prop := s.segs[k]? = some g ∧ NeverClears s

theorem step_keeps_holdsSlot (hs : HoldsSlot k g s) (h : step s = .next t) : HoldsSlot k g t := by
  obtain ⟨hslot, hnever⟩ := hs
  exact ⟨step_keeps_slot hnever h hslot, step_keeps_neverClears hnever h⟩

/-- Settles O31: that the slot holds its segment and no access to come clears the list is what every step keeps. -/
theorem segmentsStayUnchangedOverARun : Obligations.SegmentsStayUnchangedOverARun := by
  intro n s t k g hslot hnever hrun
  have ht : HoldsSlot k g t := run_induction step_keeps_holdsSlot ⟨hslot, hnever⟩ hrun
  exact ht.1

end Sys2Proof.Machine
end

section
/-! Payloads as groups of characters, each group in a field of one width (R161 to R164). -/
namespace Sys2Proof.Machine

variable {p : List Byte → Bits} {g w k : Nat} {l : List Byte}

/-- The payload takes its text in groups of `g` characters from the start, and a whole group's field has `w` bits. -/
def PacksGroups (p : List Byte → Bits) (g w : Nat) : Prop :=
  ∀ group rest, group.length = g → (p group).length = w ∧ p (group ++ rest) = p group ++ p rest

/-- The first group's field, then the payload of the rest. -/
theorem PacksGroups.split (h : PacksGroups p g w) (hl : g ≤ l.length) :
    (p (l.take g)).length = w ∧ p l = p (l.take g) ++ p (l.drop g) := by
  simpa only [List.take_append_drop] using h (l.take g) (l.drop g) (List.length_take_of_le hl)

/-- After the fields of k whole groups stands the payload of the text after them. -/
theorem PacksGroups.drop (h : PacksGroups p g w) (hl : g * k ≤ l.length) :
    (p l).drop (w * k) = p (l.drop (g * k)) := by
  induction k generalizing l with
  | zero => rfl
  | succ k ih =>
    simp only [Nat.mul_succ] at hl ⊢
    obtain ⟨hlen, hp⟩ := h.split (l := l) (by omega)
    have hrest : g * k ≤ (l.drop g).length := by
      rw [List.length_drop]
      omega
    rw [hp, Nat.add_comm (w * k), ← List.drop_drop, List.drop_left' hlen, ih hrest, List.drop_drop, Nat.add_comm g]

/-- The field of group k. -/
theorem PacksGroups.field (h : PacksGroups p g w) (hl : g * k + g ≤ l.length) :
    ((p l).drop (w * k)).take w = p ((l.drop (g * k)).take g) := by
  have hgroup : g ≤ (l.drop (g * k)).length := by
    rw [List.length_drop]
    omega
  obtain ⟨hlen, hp⟩ := h.split hgroup
  rw [h.drop (by omega), hp, List.take_left' hlen]

/-- Two texts over the bytes `A`, of one length that is at most n, are the same text where their payloads are equal. -/
def DeterminesTexts (p : List Byte → Bits) (A : Byte → Bool) (n : Nat) : Prop :=
  ∀ x y : List Byte, x.length = y.length → x.length ≤ n → x.all A = true → y.all A = true → p x = p y → x = y

/-- A payload that determines the texts of one group or less determines the texts of any length. -/
theorem PacksGroups.determinesTexts (h : PacksGroups p g w) (hg : 0 < g) {A : Byte → Bool}
    (hshort : DeterminesTexts p A g) (n : Nat) : DeterminesTexts p A n := by
  induction n using Nat.strong_induction_on with
  | _ n ih =>
    intro x y hlen hle hx hy hp
    obtain hone | hmore := le_or_gt x.length g
    · exact hshort x y hlen hone hx hy hp
    · obtain ⟨hxw, hxp⟩ := h.split hmore.le
      obtain ⟨hyw, hyp⟩ := h.split (hlen ▸ hmore.le)
      rw [hxp, hyp] at hp
      obtain ⟨hgroup, hrest⟩ := List.append_inj hp (hxw.trans hyw.symm)
      rw [← List.take_append_drop g x, List.all_append, Bool.and_eq_true] at hx
      rw [← List.take_append_drop g y, List.all_append, Bool.and_eq_true] at hy
      obtain ⟨hxtake, hxdrop⟩ := hx
      obtain ⟨hytake, hydrop⟩ := hy
      have htake : x.take g = y.take g :=
        hshort _ _ (by simp only [List.length_take, hlen]) (List.length_take_le ..) hxtake hytake hgroup
      have hdrop : x.drop g = y.drop g :=
        ih (n - g) (by omega) _ _ (by simp only [List.length_drop, hlen])
          (by rw [List.length_drop]; exact Nat.sub_le_sub_right hle g) hxdrop hydrop hrest
      rw [← List.take_append_drop g x, htake, hdrop, List.take_append_drop]

theorem numericPayload_packsGroups : PacksGroups numericPayload 3 10 := by
  intro group rest hgroup
  obtain ⟨a, b, c, rfl⟩ := List.length_eq_three.1 hgroup
  simp [numericPayload]

theorem alnumPayload_packsGroups : PacksGroups alnumPayload 2 11 := by
  intro group rest hgroup
  obtain ⟨a, b, rfl⟩ := List.length_eq_two.1 hgroup
  simp [alnumPayload]

theorem bytePayload_packsGroups : PacksGroups bytePayload 1 8 := by
  intro group rest hgroup
  obtain ⟨a, rfl⟩ := List.length_eq_one_iff.1 hgroup
  simp [bytePayload]

theorem numericPayload_singleton (a : Byte) : numericPayload [a] = bitsof (digit a) 4 := by
  simp [numericPayload, groupBits, groupValue]

theorem numericPayload_pair (a b : Byte) : numericPayload [a, b] = bitsof (10 * digit a + digit b) 7 := by
  simp [numericPayload, groupBits, groupValue]

theorem numericPayload_triple (a b c : Byte) :
    numericPayload [a, b, c] = bitsof (100 * digit a + 10 * digit b + digit c) 10 := by
  have hvalue : groupValue [a, b, c] = 100 * digit a + 10 * digit b + digit c := by
    simp only [groupValue, List.foldl_cons, List.foldl_nil]
    omega
  rw [← hvalue]
  exact List.append_nil _

/-- R162. -/
theorem numericPayload_length (l : List Byte) : (numericPayload l).length =
    10 * (l.length / 3) + (if l.length % 3 = 1 then 4 else if l.length % 3 = 2 then 7 else 0) := by
  induction l using numericPayload.induct with
  | case1 => rfl
  | case2 x => simp [numericPayload]
  | case3 x y => simp [numericPayload]
  | case4 x y z rest ih =>
    rw [numericPayload, List.length_append, ih, groupBits_length]
    simp only [List.length_cons, List.length_nil]
    split_ifs <;> omega

/-- R163. -/
theorem alnumPayload_length (l : List Byte) :
    (alnumPayload l).length = 11 * (l.length / 2) + (if l.length % 2 = 1 then 6 else 0) := by
  induction l using alnumPayload.induct with
  | case1 => rfl
  | case2 x => simp [alnumPayload]
  | case3 x y rest ih =>
    rw [alnumPayload, List.length_append, ih, bitsof_length]
    simp only [List.length_cons]
    split_ifs <;> omega

/-- R164. -/
theorem bytePayload_length (l : List Byte) : (bytePayload l).length = 8 * l.length := by
  induction l with
  | nil => rfl
  | cons x rest ih =>
    rw [bytePayload, List.length_append, ih, bitsof_length, List.length_cons]
    omega

end Sys2Proof.Machine
end

section
/-! The payloads of the input (R161 to R164): the text operand by its bytes, and each payload group by group. -/
namespace Sys2Proof.Machine

open Spec (AllDigits AllAlnum IsNumericPayload IsAlnumPayload IsBytePayload)

variable {s : State} {o n : Nat}

theorem textOperand_all_iff {A : Byte → Bool} :
    (textOperand s).all A = true ↔ ∀ k, k < s.inlen.toNat → A (inByte s k) = true := by
  simp [textOperand, memRead]

theorem allDigits_iff : AllDigits s ↔ (textOperand s).all isDigit = true := by
  simp only [AllDigits, textOperand_all_iff, isDigit, Bool.and_eq_true, decide_eq_true_eq]

theorem allAlnum_iff : AllAlnum s ↔ (textOperand s).all isAlnum = true := textOperand_all_iff.symm

theorem textOperand_drop (s : State) (o : Nat) :
    (textOperand s).drop o = (List.range' o (s.inlen.toNat - o)).map (inByte s) := by
  rw [textOperand, memRead, ← List.map_drop, List.range_eq_range', List.drop_range', Nat.mul_one, Nat.zero_add]

theorem textOperand_slice (h : o + n ≤ s.inlen.toNat) :
    ((textOperand s).drop o).take n = (List.range' o n).map (inByte s) := by
  rw [textOperand_drop, ← List.map_take, show s.inlen.toNat - o = n + (s.inlen.toNat - o - n) by omega,
    ← List.range'_append_1, List.take_left' List.length_range']

theorem numericPayload_isNumericPayload (s : State) : IsNumericPayload s (numericPayload (textOperand s)) := by
  have htail := numericPayload_packsGroups.drop (k := s.inlen.toNat / 3) (l := textOperand s)
    (by rw [textOperand_length]; omega)
  rw [textOperand_drop] at htail
  refine ⟨?length, fun k hk => ?group, fun hone => ?one, fun htwo => ?two⟩
  case length => rw [numericPayload_length, textOperand_length]
  case group =>
    have hin : 3 * k + 3 ≤ s.inlen.toNat := by omega
    rw [numericPayload_packsGroups.field (by rwa [textOperand_length]), textOperand_slice hin]
    exact numericPayload_triple ..
  case one =>
    rw [htail, show s.inlen.toNat - 3 * (s.inlen.toNat / 3) = 1 by omega,
      show s.inlen.toNat - 1 = 3 * (s.inlen.toNat / 3) by omega]
    exact numericPayload_singleton _
  case two =>
    rw [htail, show s.inlen.toNat - 3 * (s.inlen.toNat / 3) = 2 by omega,
      show s.inlen.toNat - 2 = 3 * (s.inlen.toNat / 3) by omega,
      show s.inlen.toNat - 1 = 3 * (s.inlen.toNat / 3) + 1 by omega]
    exact numericPayload_pair ..

theorem alnumPayload_isAlnumPayload (s : State) : IsAlnumPayload s (alnumPayload (textOperand s)) := by
  have htail := alnumPayload_packsGroups.drop (k := s.inlen.toNat / 2) (l := textOperand s)
    (by rw [textOperand_length]; omega)
  rw [textOperand_drop] at htail
  refine ⟨?length, fun k hk => ?group, fun hone => ?one⟩
  case length => rw [alnumPayload_length, textOperand_length]
  case group =>
    have hin : 2 * k + 2 ≤ s.inlen.toNat := by omega
    rw [alnumPayload_packsGroups.field (by rwa [textOperand_length]), textOperand_slice hin]
    exact List.append_nil _
  case one =>
    rw [htail, show s.inlen.toNat - 2 * (s.inlen.toNat / 2) = 1 by omega,
      show s.inlen.toNat - 1 = 2 * (s.inlen.toNat / 2) by omega]
    rfl

theorem bytePayload_isBytePayload (s : State) : IsBytePayload s (bytePayload (textOperand s)) := by
  refine ⟨?length, fun k hk => ?group⟩
  case length => rw [bytePayload_length, textOperand_length]
  case group =>
    have hin : 1 * k + 1 ≤ s.inlen.toNat := by omega
    rw [bytePayload_packsGroups.field (by rwa [textOperand_length]), textOperand_slice hin]
    rw [Nat.one_mul]
    exact List.append_nil _

end Sys2Proof.Machine
end

section
/-! The factories over a text (R160 to R166). -/
namespace Sys2Proof.Machine

open Spec (AllDigits AllAlnum IsNumericPayload IsAlnumPayload IsBytePayload CommitsFactory)

variable {s : State} {i : Instr} {m : Mode} {n : Nat} {b : Bits}

/-- R160: the three ways in which FactoryCommit ends. -/
theorem commitsFactory_of_exec_eq (h : exec i s = factoryCommit m n b s) : CommitsFactory i s m n b := by
  refine ⟨fun hfull => ?full, fun hroom hover => ?overflow, fun hroom hfit => ?fits⟩
  case full => exact h.trans (if_pos hfull)
  case overflow => exact h.trans ((if_neg hroom).trans (if_pos hover))
  case fits =>
    obtain ⟨hfull, -⟩ | ⟨hover, -⟩ | ⟨-, -, he⟩ := factoryCommit_cases m n b s
    · exact absurd hfull hroom
    · exact absurd hfit (Nat.not_le.2 hover)
    · exact h.trans he

theorem numericBody_of_not_allDigits (h : ¬AllDigits s) : numericBody s = raise .invalidArgument s :=
  if_neg (allDigits_iff.not.1 h)

theorem alnumBody_of_not_allAlnum (h : ¬AllAlnum s) : alnumBody s = raise .invalidArgument s :=
  if_neg (allAlnum_iff.not.1 h)

/-- R161: what a command that runs SEG_NUM's body makes of digits. -/
theorem numericBody_commits (hi : exec i s = numericBody s) (h : AllDigits s) :
    ∃ B, IsNumericPayload s B ∧ CommitsFactory i s .numeric s.inlen.toNat B :=
  ⟨_, numericPayload_isNumericPayload s, commitsFactory_of_exec_eq (hi.trans (if_pos (allDigits_iff.1 h)))⟩

/-- R163: what a command that runs SEG_ALNUM's body makes of a text over the 45 symbols. -/
theorem alnumBody_commits (hi : exec i s = alnumBody s) (h : AllAlnum s) :
    ∃ B, IsAlnumPayload s B ∧ CommitsFactory i s .alphanumeric s.inlen.toNat B :=
  ⟨_, alnumPayload_isAlnumPayload s, commitsFactory_of_exec_eq (hi.trans (if_pos (allAlnum_iff.1 h)))⟩

/-- R164: what a command that runs SEG_BYTES's body makes of any text. -/
theorem bytesBody_commits (hi : exec i s = bytesBody s) :
    ∃ B, IsBytePayload s B ∧ CommitsFactory i s .byte s.inlen.toNat B :=
  ⟨_, bytePayload_isBytePayload s, commitsFactory_of_exec_eq hi⟩

/-- Settles O45: the check of the digits, then the commit of the payload. -/
theorem segNumPacksDigits : Obligations.SegNumPacksDigits :=
  ⟨plainWords_of_row rfl, fun _ => ⟨numericBody_of_not_allDigits, numericBody_commits rfl⟩⟩

/-- Settles O46: the check of the symbols, then the commit of the payload. -/
theorem segAlnumPacksPairs : Obligations.SegAlnumPacksPairs :=
  ⟨plainWords_of_row rfl, fun _ => ⟨alnumBody_of_not_allAlnum, alnumBody_commits rfl⟩⟩

/-- Settles O47: the commit of the payload, with no check before it. -/
theorem segBytesStoresEveryByte : Obligations.SegBytesStoresEveryByte :=
  ⟨plainWords_of_row rfl, fun _ => bytesBody_commits rfl⟩

/-- R166: the choice among the three bodies for a text that is not empty. -/
theorem exec_segAuto_of_nonempty (h : s.inlen.toNat ≠ 0) : exec .segAuto s =
    if (textOperand s).all isDigit then numericBody s
    else if (textOperand s).all isAlnum then alnumBody s
    else bytesBody s :=
  if_neg h

/-- Settles O49: SEG_AUTO runs the body of the factory that it chooses. -/
theorem segAutoChoosesOneMode : Obligations.SegAutoChoosesOneMode := by
  refine ⟨plainWords_of_row rfl, fun s => ⟨fun hempty => if_pos hempty, fun hne hdigits => ?digits,
    fun hne hdigits halnum => ?alnum, fun hne hdigits halnum => ?bytes⟩⟩
  all_goals have hauto := exec_segAuto_of_nonempty hne
  case digits =>
    rw [if_pos (allDigits_iff.1 hdigits)] at hauto
    exact ⟨hauto, numericBody_commits hauto hdigits⟩
  case alnum =>
    rw [if_neg (allDigits_iff.not.1 hdigits), if_pos (allAlnum_iff.1 halnum)] at hauto
    exact ⟨hauto, alnumBody_commits hauto halnum⟩
  case bytes =>
    rw [if_neg (allDigits_iff.not.1 hdigits), if_neg (allAlnum_iff.not.1 halnum)] at hauto
    exact ⟨hauto, bytesBody_commits hauto⟩

end Sys2Proof.Machine
end

section
/-! The ECI designator (R165, R168). -/
namespace Sys2Proof.Machine

open Spec (eciValue CommitsFactory)

variable {s : State} {v : Nat}

theorem eciPayload_of_lt_128 (h : v < 128) : eciPayload v = bitsof v 8 := if_pos h

theorem eciPayload_of_lt_16384 (h : 128 ≤ v) (h' : v < 16384) : eciPayload v = [true, false] ++ bitsof v 14 := by
  rw [eciPayload, if_neg (Nat.not_lt.2 h), if_pos h']

theorem eciPayload_of_16384_le (h : 16384 ≤ v) : eciPayload v = [true, true, false] ++ bitsof v 21 := by
  rw [eciPayload, if_neg (by omega), if_neg (Nat.not_lt.2 h)]

theorem eciPayload_length_le (v : Nat) : (eciPayload v).length ≤ 24 := by
  unfold eciPayload
  split_ifs <;> simp

theorem natOfBits_take_bitsof {n : Nat} (h : v < 2 ^ n) : natOfBits ((bitsof v n).take n) = v := by
  rw [List.take_of_length_le (bitsof_length v n).le, natOfBits_bitsof, Nat.mod_eq_of_lt h]

theorem eciValue_of_zero {B : Bits} (h : B[0]? = some false) : eciValue B = natOfBits (B.take 8) := if_pos h

theorem eciValue_of_one_zero (b : Bits) : eciValue ([true, false] ++ b) = natOfBits (b.take 14) := by simp [eciValue]

theorem eciValue_of_one_one_zero (b : Bits) : eciValue ([true, true, false] ++ b) = natOfBits (b.take 21) := by
  simp [eciValue]

/-- R168: the leading bits tell the three forms apart, and the field of each holds the value. -/
theorem eciValue_eciPayload (hv : v < 1000000) : eciValue (eciPayload v) = v := by
  obtain hshort | h128 := Nat.lt_or_ge v 128
  · have hlead : (bitsof v 8)[0]? = some false := by
      rw [bitsof_getElem? v (by decide), Nat.testBit_lt_two_pow hshort]
    rw [eciPayload_of_lt_128 hshort, eciValue_of_zero hlead, natOfBits_take_bitsof (by omega)]
  · obtain hmiddle | h16384 := Nat.lt_or_ge v 16384
    · rw [eciPayload_of_lt_16384 h128 hmiddle, eciValue_of_one_zero, natOfBits_take_bitsof hmiddle]
    · rw [eciPayload_of_16384_le h16384, eciValue_of_one_one_zero, natOfBits_take_bitsof (by omega)]

/-- R165: SEG_ECI of a value in range commits its designator. -/
theorem segEci_commits (h : 0 ≤ s.imm.toInt) (h' : s.imm.toInt < 1000000) :
    CommitsFactory .segEci s .eci 0 (eciPayload s.imm.toNat) := by
  rw [← toNat_toInt_of_nonneg h]
  exact commitsFactory_of_exec_eq (if_neg (not_or.2 ⟨Int.not_lt.2 h, Int.not_le.2 h'⟩))

/-- Settles O48: the range check, then the commit of the designator, which has one form in each of the three ranges. -/
theorem segEciMakesTheDesignator : Obligations.SegEciMakesTheDesignator := by
  refine ⟨plainWords_of_row rfl, fun s => ⟨fun hbad => if_pos hbad, fun hlo hhi => ?short, fun hlo hhi => ?middle,
    fun hlo hhi => ?long⟩⟩
  all_goals
    have hnonneg : 0 ≤ s.imm.toInt := by omega
    have hcommit := segEci_commits hnonneg (by omega)
    have himm := toNat_toInt_of_nonneg hnonneg
  case short => rwa [eciPayload_of_lt_128 (by omega)] at hcommit
  case middle => rwa [eciPayload_of_lt_16384 (by omega) (by omega)] at hcommit
  case long => rwa [eciPayload_of_16384_le (by omega)] at hcommit

/-- Settles O53: the designator has at most 24 bits, so SEG_ECI stores it, and it reads back as the value. -/
theorem eciDesignatorReadsBackItsValue : Obligations.EciDesignatorReadsBackItsValue := by
  intro s hlo hhi hroom hbits
  obtain ⟨-, -, hcommit⟩ := segEci_commits hlo hhi
  have himm := toNat_toInt_of_nonneg hlo
  refine ⟨_, _, hcommit hroom ((eciPayload_length_le _).trans hbits), rfl, ?_⟩
  rw [eciValue_eciPayload (by omega)]
  omega

end Sys2Proof.Machine
end

section
/-! A text of known length from its payload (R161, R163, R164). -/
namespace Sys2Proof.Machine

variable {a b : Byte} {v u n : Nat} {x y : List Byte}

theorem bitsof_injective (hv : v < 2 ^ n) (hu : u < 2 ^ n) (h : bitsof v n = bitsof u n) : v = u := by
  have hnat := congrArg natOfBits h
  rwa [natOfBits_bitsof, natOfBits_bitsof, Nat.mod_eq_of_lt hv, Nat.mod_eq_of_lt hu] at hnat

theorem digit_lt (h : isDigit a = true) : digit a < 10 := by
  simp only [isDigit, Bool.and_eq_true, decide_eq_true_eq] at h
  simp only [digit]
  omega

theorem digit_injective (ha : isDigit a = true) (hb : isDigit b = true) (h : digit a = digit b) : a = b := by
  simp only [isDigit, Bool.and_eq_true, decide_eq_true_eq] at ha hb
  simp only [digit] at h
  exact BitVec.eq_of_toNat_eq (by omega)

theorem groupValue_concat (x : List Byte) (a : Byte) : groupValue (x ++ [a]) = 10 * groupValue x + digit a := by
  rw [groupValue, List.foldl_concat, groupValue]

theorem all_concat {A : Byte → Bool} : (x ++ [a]).all A = true ↔ x.all A = true ∧ A a = true := by simp

theorem groupValue_lt (h : x.all isDigit = true) : groupValue x < 10 ^ x.length := by
  induction x using List.reverseRecOn with
  | nil => decide
  | append_singleton x a ih =>
    obtain ⟨hx, ha⟩ := all_concat.1 h
    have hxlt := ih hx
    have halt := digit_lt ha
    rw [groupValue_concat, List.length_append, List.length_singleton, Nat.pow_succ]
    omega

/-- Equally many decimal digits of one value are the same digits. -/
theorem groupValue_injective (hlen : x.length = y.length) (hx : x.all isDigit = true) (hy : y.all isDigit = true)
    (h : groupValue x = groupValue y) : x = y := by
  induction x using List.reverseRecOn generalizing y with
  | nil => exact (List.eq_nil_of_length_eq_zero hlen.symm).symm
  | append_singleton x a ih =>
    obtain rfl | ⟨y, b, rfl⟩ := List.eq_nil_or_concat' y
    · simp at hlen
    · obtain ⟨hx, ha⟩ := all_concat.1 hx
      obtain ⟨hy, hb⟩ := all_concat.1 hy
      rw [groupValue_concat, groupValue_concat] at h
      have halt := digit_lt ha
      have hblt := digit_lt hb
      rw [ih (by simpa using hlen) hx hy (by omega), digit_injective ha hb (by omega)]

/-- A text of at most three digits is one group. -/
theorem numericPayload_of_length_le (hne : x ≠ []) (h : x.length ≤ 3) : numericPayload x = groupBits x := by
  match x, hne, h with
  | [_], _, _ => rfl
  | [_, _], _, _ => rfl
  | [_, _, _], _, _ => exact List.append_nil _

/-- The field of a group of up to three digits is wide enough for every value (R162). -/
theorem groupBits_injective (hlen : x.length = y.length) (hle : x.length ≤ 3) (hx : x.all isDigit = true)
    (hy : y.all isDigit = true) (h : groupBits x = groupBits y) : x = y := by
  have hpow : 10 ^ x.length ≤ 2 ^ (3 * x.length + 1) := by interval_cases x.length <;> decide
  have hxlt := groupValue_lt hx
  have hylt := groupValue_lt hy
  rw [groupBits, groupBits, ← hlen] at h
  rw [← hlen] at hylt
  exact groupValue_injective hlen hx hy (bitsof_injective (hxlt.trans_le hpow) (hylt.trans_le hpow) h)

theorem numericPayload_determinesShort : DeterminesTexts numericPayload isDigit 3 := by
  intro x y hlen hle hx hy h
  obtain rfl | hne := eq_or_ne x []
  · exact (List.eq_nil_of_length_eq_zero hlen.symm).symm
  · have hney : y ≠ [] := fun hnil => hne (List.eq_nil_of_length_eq_zero (by rw [hlen, hnil, List.length_nil]))
    rw [numericPayload_of_length_le hne hle, numericPayload_of_length_le hney (hlen ▸ hle)] at h
    exact groupBits_injective hlen hle hx hy h

theorem alnumPos_alnumIndex (h : isAlnum a = true) : alnumPos a = some (alnumIndex a) := by
  obtain ⟨k, hk⟩ := Option.isSome_iff_exists.1 h
  rw [hk, alnumIndex, hk, Option.getD_some]

theorem alnumIndex_lt (h : isAlnum a = true) : alnumIndex a < 45 :=
  (List.getElem?_eq_some_iff.1 ((alnumPos_eq_some_iff a _).1 (alnumPos_alnumIndex h))).1

theorem alnumIndex_injective (ha : isAlnum a = true) (hb : isAlnum b = true) (h : alnumIndex a = alnumIndex b) :
    a = b := by
  have hsome := (alnumPos_eq_some_iff a _).1 (alnumPos_alnumIndex ha)
  rw [h, (alnumPos_eq_some_iff b _).1 (alnumPos_alnumIndex hb)] at hsome
  exact (Option.some.inj hsome).symm

/-- The field of a pair holds the two indices as the digits of a number to base 45. -/
theorem alnumPayload_determinesShort : DeterminesTexts alnumPayload isAlnum 2 := by
  intro x y hlen hle hx hy h
  match x, y, hlen, hle with
  | [], [], _, _ => rfl
  | [a], [b], _, _ =>
    simp only [List.all_cons, List.all_nil, Bool.and_true] at hx hy
    have ha := alnumIndex_lt hx
    have hb := alnumIndex_lt hy
    rw [alnumIndex_injective hx hy (bitsof_injective (n := 6) (by omega) (by omega) h)]
  | [a, c], [b, d], _, _ =>
    simp only [List.all_cons, List.all_nil, Bool.and_true, Bool.and_eq_true] at hx hy
    obtain ⟨ha, hc⟩ := hx
    obtain ⟨hb, hd⟩ := hy
    have halt := alnumIndex_lt ha
    have hblt := alnumIndex_lt hb
    have hclt := alnumIndex_lt hc
    have hdlt := alnumIndex_lt hd
    simp only [alnumPayload, List.append_nil] at h
    have hvalue := bitsof_injective (by omega) (by omega) h
    rw [alnumIndex_injective ha hb (by omega), alnumIndex_injective hc hd (by omega)]

theorem bytePayload_determinesShort : DeterminesTexts bytePayload (fun _ => true) 1 := by
  intro x y hlen hle _ _ h
  match x, y, hlen, hle with
  | [], [], _, _ => rfl
  | [a], [b], _, _ =>
    simp only [bytePayload, List.append_nil] at h
    rw [BitVec.eq_of_toNat_eq (bitsof_injective a.isLt b.isLt h)]

/-- Settles O54: each payload is a row of fields, and each field determines its group. -/
theorem payloadDeterminesTheInput : Obligations.PayloadDeterminesTheInput := by
  intro x y hlen
  have hnum := numericPayload_packsGroups.determinesTexts (by decide) numericPayload_determinesShort x.length
  have halnum := alnumPayload_packsGroups.determinesTexts (by decide) alnumPayload_determinesShort x.length
  have hbyte := bytePayload_packsGroups.determinesTexts (by decide) bytePayload_determinesShort x.length
  exact ⟨hnum x y hlen le_rfl, halnum x y hlen le_rfl, hbyte x y hlen le_rfl (by simp) (by simp)⟩

end Sys2Proof.Machine
end

section
/-! The words of the opcodes that use VR alone (R93, R95). -/
namespace Sys2Proof

open Spec (VersionWords)

theorem versionWords_of_row {op : Nat} {p mask : Word} {f : Nat → Instr}
    (h : opcodeMap[op]? = some ⟨p, mask, .version f⟩) : VersionWords op f := by
  intro c hop
  have hlow : c.toNat % 2 ^ 15 = op ↔ c.toNat / 2 ^ 6 % 2 ^ 9 = 0 := by omega
  have hdecode := decode_of_row h hop
  simp only [CommandForm.span, hlow] at hdecode
  exact ⟨fun hc => hdecode.trans (if_pos hc), fun hc => ⟨_, hdecode.trans (if_neg hc)⟩⟩

end Sys2Proof
end

section
/-! The loop of TotalBits and the sum that it stands for (R191), and the bits that the serializer writes (R195). -/
namespace Sys2Proof.Machine

open Spec (Fits totalLength wireFormat)

variable {s : State} {p : Config.Params} {v acc r : Nat} {seg : Segment} {segs : List Segment}

@[simp] theorem totalLength_nil (p : Config.Params) (v : Nat) : totalLength p v [] = 0 := rfl

@[simp] theorem totalLength_cons (p : Config.Params) (v : Nat) (seg : Segment) (segs : List Segment) :
    totalLength p v (seg :: segs) = 4 + ccw p seg.mode v + seg.data.length + totalLength p v segs := by
  simp [totalLength]

/-- One round of the loop ends without FAIL where the count fits its field and the running total 31 bits. -/
theorem totalBitsFrom_cons_eq_some_iff : totalBitsFrom p v acc (seg :: segs) = some r ↔
    seg.count < 2 ^ ccw p seg.mode v ∧ acc + 4 + ccw p seg.mode v + seg.data.length ≤ totalLimit ∧
      totalBitsFrom p v (acc + 4 + ccw p seg.mode v + seg.data.length) segs = some r := by
  rw [totalBitsFrom]
  split_ifs with hcount hlimit
  · simp [Nat.not_lt.2 hcount]
  · simp [Nat.not_le.2 hlimit]
  · simp [Nat.not_le.1 hcount, Nat.not_lt.1 hlimit]

/-- R191: the running total only grows, so it is within the limit throughout where the whole sum is. -/
theorem totalBitsFrom_eq_some_iff (hacc : acc ≤ totalLimit) : totalBitsFrom p v acc segs = some r ↔
    (∀ g ∈ segs, g.count < 2 ^ ccw p g.mode v) ∧ acc + totalLength p v segs ≤ totalLimit ∧
      acc + totalLength p v segs = r := by
  induction segs generalizing acc with
  | nil => simp [totalBitsFrom, hacc]
  | cons seg segs ih =>
    rw [totalBitsFrom_cons_eq_some_iff, List.forall_mem_cons, totalLength_cons]
    constructor
    · rintro ⟨hcount, hlimit, hrest⟩
      obtain ⟨hcounts, hsum, hr⟩ := (ih hlimit).1 hrest
      exact ⟨⟨hcount, hcounts⟩, by omega, by omega⟩
    · rintro ⟨⟨hcount, hcounts⟩, hsum, hr⟩
      have hlimit : acc + 4 + ccw p seg.mode v + seg.data.length ≤ totalLimit := by omega
      exact ⟨hcount, hlimit, (ih hlimit).2 ⟨hcounts, by omega, by omega⟩⟩

/-- R191: TotalBits is the sum where every count and the total fit, and FAIL otherwise. -/
theorem totalBitsOf_eq_some_iff :
    totalBitsOf s v = some r ↔ Fits s.params v s.segs ∧ totalLength s.params v s.segs = r := by
  rw [totalBitsOf, totalBitsFrom_eq_some_iff (Nat.zero_le _), Nat.zero_add, ← and_assoc, Fits]

theorem totalBitsOf_of_fits (h : Fits s.params v s.segs) :
    totalBitsOf s v = some (totalLength s.params v s.segs) := totalBitsOf_eq_some_iff.2 ⟨h, rfl⟩

theorem totalBitsOf_of_not_fits (h : ¬Fits s.params v s.segs) : totalBitsOf s v = none :=
  Option.eq_none_iff_forall_ne_some.2 fun _ hr => h (totalBitsOf_eq_some_iff.1 hr).1

/-- R195: the serializer's bits are the statements' wire format. -/
theorem wireAll_eq_wireFormat (p : Config.Params) (v : Nat) (segs : List Segment) :
    wireAll p v segs = wireFormat p v segs := List.flatMap_def

theorem wireFormat_length_of_fits (h : Fits s.params v s.segs) :
    (wireFormat s.params v s.segs).length = totalLength s.params v s.segs := by
  rw [← wireAll_eq_wireFormat]
  exact wireAll_length_of_totalBitsOf (totalBitsOf_of_fits h)

end Sys2Proof.Machine
end

section
/-! TOTAL_BITS and SERIALIZE (R190, R194): the outcome in each of their cases. -/
namespace Sys2Proof.Machine

open Spec (Fits totalLength wireFormat)

variable {s : State} {v : Nat}

theorem legalVersion_eq_true (hlo : 1 ≤ v) (hhi : v ≤ 40) : legalVersion v = true := (legalVersion_iff v).2 ⟨hlo, hhi⟩

theorem legalVersion_ne_true (h : v < 1 ∨ 40 < v) : ¬legalVersion v = true := fun hlegal => by
  obtain ⟨hlo, hhi⟩ := (legalVersion_iff v).1 hlegal
  omega

theorem execTotalBits_of_illegal (h : v < 1 ∨ 40 < v) : execTotalBits v s = raise .badVersion s :=
  if_neg (legalVersion_ne_true h)

theorem execTotalBits_of_not_fits (hlo : 1 ≤ v) (hhi : v ≤ 40) (h : ¬Fits s.params v s.segs) :
    execTotalBits v s = capacityExceeded s := by
  rw [execTotalBits, if_pos (legalVersion_eq_true hlo hhi), totalBitsOf_of_not_fits h]

theorem execTotalBits_of_fits (hlo : 1 ≤ v) (hhi : v ≤ 40) (h : Fits s.params v s.segs) :
    execTotalBits v s = done (s.setRes (word32 (totalLength s.params v s.segs))) := by
  rw [execTotalBits, if_pos (legalVersion_eq_true hlo hhi), totalBitsOf_of_fits h]

theorem execSerialize_of_illegal (h : v < 1 ∨ 40 < v) : execSerialize v s = raise .badVersion s :=
  if_neg (legalVersion_ne_true h)

theorem execSerialize_of_not_fits (hlo : 1 ≤ v) (hhi : v ≤ 40) (h : ¬Fits s.params v s.segs) :
    execSerialize v s = capacityExceeded s := by
  rw [execSerialize, if_pos (legalVersion_eq_true hlo hhi), totalBitsOf_of_not_fits h]

/-- R194: at a legal version, with a total, the room in OUT decides. -/
theorem execSerialize_of_fits (hlo : 1 ≤ v) (hhi : v ≤ 40) (h : Fits s.params v s.segs) :
    execSerialize v s =
      if s.out.length + totalLength s.params v s.segs > s.params.oBits then raise .bufferFull s
      else done ((s.setOut (s.out ++ wireFormat s.params v s.segs)).setRes
        (word32 (totalLength s.params v s.segs))) := by
  rw [execSerialize, if_pos (legalVersion_eq_true hlo hhi), totalBitsOf_of_fits h, wireAll_eq_wireFormat]

/-- Everything SERIALIZE can do: it succeeds at a legal version with a total, or leaves OUT alone (R194). -/
theorem execSerialize_cases (v : Nat) (s : State) :
    (∃ e, e ≠ LErr.none ∧ execSerialize v s = raise e s) ∨ execSerialize v s = capacityExceeded s ∨
      (1 ≤ v ∧ v ≤ 40 ∧ Fits s.params v s.segs ∧
        execSerialize v s = done ((s.setOut (s.out ++ wireFormat s.params v s.segs)).setRes
          (word32 (totalLength s.params v s.segs)))) := by
  obtain hbad | ⟨hlo, hhi⟩ : (v < 1 ∨ 40 < v) ∨ (1 ≤ v ∧ v ≤ 40) := by omega
  · exact .inl ⟨.badVersion, by decide, execSerialize_of_illegal hbad⟩
  · by_cases hfits : Fits s.params v s.segs
    · have he := execSerialize_of_fits hlo hhi hfits
      split at he
      · exact .inl ⟨.bufferFull, by decide, he⟩
      · exact .inr (.inr ⟨hlo, hhi, hfits, he⟩)
    · exact .inr (.inl (execSerialize_of_not_fits hlo hhi hfits))

/-- Settles O50: the words by the row of the map, then the version check and the loop's result. -/
theorem totalBitsReturnsTheSumOrOverCapacity : Obligations.TotalBitsReturnsTheSumOrOverCapacity :=
  ⟨versionWords_of_row rfl, fun _ _ =>
    ⟨execTotalBits_of_illegal, execTotalBits_of_not_fits, execTotalBits_of_fits⟩⟩

/-- Settles O51: the checks of R194 in their order, each by the branch that it takes. -/
theorem serializeAppendsTheWireFormatOrNothing : Obligations.SerializeAppendsTheWireFormatOrNothing :=
  ⟨versionWords_of_row rfl, fun _ _ => ⟨execSerialize_of_illegal, execSerialize_of_not_fits,
    fun hlo hhi hfits hfull => (execSerialize_of_fits hlo hhi hfits).trans (if_pos hfull),
    fun hlo hhi hfits hroom => (execSerialize_of_fits hlo hhi hfits).trans (if_neg (Nat.not_lt.2 hroom))⟩⟩

/-- Where the total fits 31 bits, RES holds it whole (R191). -/
theorem word32_totalLength_toNat {p : Config.Params} {segs : List Segment} (h : Fits p v segs) :
    (word32 (totalLength p v segs)).toNat = totalLength p v segs := by
  obtain ⟨-, hlimit⟩ := h
  rw [BitVec.toNat_ofNat]
  omega

/-- Settles O52: of SERIALIZE's outcomes only the success has its STATUS, and there the total that TOTAL_BITS returns is
the length of the wire format. -/
theorem serializeAppendsAsManyBitsAsTotalBitsReturns : Obligations.SerializeAppendsAsManyBitsAsTotalBitsReturns := by
  intro s t u v ht hok hu
  obtain ⟨e, he, hraise⟩ | hcap | ⟨hlo, hhi, hfits, hdone⟩ := execSerialize_cases v s
  · rw [raise_next (hraise.symm.trans ht)] at hok
    exact absurd (congrArg Status.lerr hok) he
  · rw [capacityExceeded_next (hcap.symm.trans ht)] at hok
    exact nomatch congrArg Status.capx hok
  · rw [done_next (hdone.symm.trans ht), done_next ((execTotalBits_of_fits hlo hhi hfits).symm.trans hu)]
    refine ⟨rfl, rfl, ?_⟩
    simp only [State.setStatus_out, State.setRes_out, State.setOut_out, State.setStatus_res, State.setRes_res,
      List.length_append, wireFormat_length_of_fits hfits, word32_totalLength_toNat hfits]

end Sys2Proof.Machine
end

section
/-! What the commands that write OUT leave unchanged (R192, R194, R222, R224). -/
namespace Sys2Proof.Machine

/-- SERIALIZE writes OUT, RES and STATUS alone. -/
theorem execSerialize_frame {s t : State} {v : Nat} (h : execSerialize v s = .next t) :
    ∃ out res st, t = ((s.setOut out).setRes res).setStatus st := by
  obtain ⟨e, -, he⟩ | he | ⟨-, -, -, he⟩ := execSerialize_cases v s <;> rw [he] at h
  · exact ⟨s.out, s.res, _, raise_next h⟩
  · exact ⟨s.out, _, _, capacityExceeded_next h⟩
  · exact ⟨_, _, _, done_next h⟩

/-- Settles O58: the host's state by the frame of every command, the rest by what each of the two writes. -/
theorem frameOfTheOutputBufferCommands : Obligations.FrameOfTheOutputBufferCommands := by
  intro i s t hi h
  refine ⟨exec_hostStateKept h, ?_⟩
  obtain rfl | ⟨v, rfl⟩ := hi
  · rw [done_next h]
    exact ⟨rfl, rfl, fun _ => rfl⟩
  · obtain ⟨out, res, st, rfl⟩ := execSerialize_frame h
    exact ⟨rfl, rfl, fun hclear => nomatch hclear⟩

end Sys2Proof.Machine
end

section
/-! NOP and a host write of STATUS (R210, R213), and what the commands that only return a value leave unchanged (R133,
R134, R141, R142, R190, R222, R224). -/
namespace Sys2Proof.Machine

/-- Settles O37: the zero word by the row of the map, and NOP is a success without a write. -/
theorem nopOnlyReportsSuccess : Obligations.NopOnlyReportsSuccess :=
  ⟨plainWords_of_row rfl, fun _ => rfl⟩

/-- Settles O13: the port's write at STATUS, where bit 8 of the data takes ERRS away. -/
theorem statusWriteClearsErrs : Obligations.StatusWriteClearsErrs := fun s d rest h hbit => by
  have hstep : step s = .next ((s.setPending rest).setStatus (statusHostWrite s.status d)) := step_write h rfl
  rw [hstep, statusHostWrite_eq_ite, if_pos hbit]
  rfl

/-- The outcome is `s` after writes of RES and STATUS alone. -/
def WritesResAlone (s : State) (o : Host.Outcome State Fault Refusal) : Prop :=
  ∃ res st, o = .next ((s.setRes res).setStatus st)

theorem raise_writesResAlone (e : LErr) (s : State) : WritesResAlone s (raise e s) := ⟨s.res, _, rfl⟩

theorem doneRes_writesResAlone (s : State) (r : Word) : WritesResAlone s (done (s.setRes r)) := ⟨r, _, rfl⟩

theorem capacityExceeded_writesResAlone (s : State) : WritesResAlone s (capacityExceeded s) := ⟨_, _, rfl⟩

theorem ccw_writesResAlone (m : Mode) (v : Nat) (s : State) : WritesResAlone s (exec (.ccw m v) s) := by
  by_cases hv : 1 ≤ v ∧ v ≤ 40
  · obtain ⟨hlo, hhi⟩ := hv
    rw [exec_ccw_of_legal s m hlo hhi]
    exact doneRes_writesResAlone s (word32 (ccw s.params m v))
  · rw [exec_ccw_of_illegal s m hv]
    exact raise_writesResAlone _ s

theorem getter_writesResAlone (sl : Nat) (s : State) (f : Segment → Word) :
    WritesResAlone s (withSlot sl s fun g => s.setRes (f g)) := by
  obtain ⟨-, he⟩ | ⟨g, -, he⟩ := withSlot_cases sl s fun g => s.setRes (f g) <;> rw [he]
  · exact raise_writesResAlone _ s
  · exact doneRes_writesResAlone s _

theorem execTotalBits_writesResAlone (v : Nat) (s : State) : WritesResAlone s (execTotalBits v s) := by
  obtain hbad | ⟨hlo, hhi⟩ : (v < 1 ∨ 40 < v) ∨ (1 ≤ v ∧ v ≤ 40) := by omega
  · rw [execTotalBits_of_illegal hbad]
    exact raise_writesResAlone _ s
  · by_cases hfits : Spec.Fits s.params v s.segs
    · rw [execTotalBits_of_fits hlo hhi hfits]
      exact doneRes_writesResAlone s _
    · rw [execTotalBits_of_not_fits hlo hhi hfits]
      exact capacityExceeded_writesResAlone s

/-- Settles O55: the host's state by the frame of every command, the rest because each of the nine writes RES and STATUS
alone, and NOP not even RES. -/
theorem frameOfTheReadingCommands : Obligations.FrameOfTheReadingCommands := by
  intro i s t hi h
  have hwrites : WritesResAlone s (exec i s) := by
    simp only [List.mem_cons, List.not_mem_nil, or_false] at hi
    obtain (rfl | rfl | rfl | rfl) | ⟨m, rfl⟩ | ⟨m, v, rfl⟩ | ⟨sl, rfl⟩ | ⟨sl, rfl⟩ | ⟨v, rfl⟩ := hi
    · exact ⟨s.res, _, rfl⟩
    · exact doneRes_writesResAlone s _
    · exact doneRes_writesResAlone s _
    · exact doneRes_writesResAlone s _
    · exact doneRes_writesResAlone s _
    · exact ccw_writesResAlone m v s
    · exact getter_writesResAlone sl s _
    · exact getter_writesResAlone sl s _
    · exact execTotalBits_writesResAlone v s
  have hnop : i = .nop → t.res = s.res := by
    rintro rfl
    rw [done_next h, State.setStatus_res]
  obtain ⟨res, st, he⟩ := hwrites
  cases he.symm.trans h
  exact ⟨exec_hostStateKept h, rfl, rfl, rfl, hnop⟩

end Sys2Proof.Machine
end

section
/-! The block never stops (R230), and the three ways in which a command word ends (R222 to R224). -/
namespace Sys2Proof.Machine

theorem portWrite_answers (a : Nat) (d : Word) (s : State) : ∃ t, portWrite a d s = .next t := by
  obtain ⟨-, h⟩ | ⟨-, h⟩ | ⟨-, h⟩ | ⟨-, h⟩ | ⟨-, h⟩ | ⟨-, h⟩ := portWrite_cases a d s <;> rw [h]
  case inr.inr.inr.inl => exact issue_answers d s
  all_goals exact ⟨_, rfl⟩

theorem perform_answers (e : HostEvent) (s : State) : ∃ t, perform e s = .next t := by
  cases e with
  | read a => exact ⟨_, rfl⟩
  | write a d => exact portWrite_answers _ d s
  | reset => exact ⟨_, rfl⟩

/-- Settles O26: an idle step answers the state itself, every other step by its access. -/
theorem everyStepAnswersANextState : Obligations.EveryStepAnswersANextState := by
  intro s
  cases hp : s.pending with
  | nil => exact ⟨s, step_idle hp⟩
  | cons e rest =>
    rw [step_event hp]
    exact perform_answers e _

/-- Settles O27: an illegal word raises an error, and a command ends as every command does. -/
theorem commandWordEndsInOneOfThreeOutcomes : Obligations.CommandWordEndsInOneOfThreeOutcomes := by
  intro s c rest hp
  rw [step_cmd hp]
  obtain ⟨i, hi, he⟩ | ⟨-, -, he⟩ := issue_cases c (s.setPending rest) <;> rw [he]
  · obtain (⟨e, hne, hraise⟩ | ⟨w, out, segs, res, hdone⟩) | ⟨⟨v, hv⟩, hcap⟩ :=
      exec_cases i ((s.setPending rest).setCmdlast c)
    · exact .inl ⟨e, hne, hraise⟩
    · exact .inr (.inr ⟨_, hdone, rfl, rfl, rfl⟩)
    · have hword : decode c = .command (.totalBits v) ∨ decode c = .command (.serialize v) := by
        simpa only [hi, Decoded.command.injEq] using hv
      exact .inr (.inl ⟨⟨v, hword⟩, hcap⟩)
  · exact .inl ⟨.illegalCommand, by decide, rfl⟩

end Sys2Proof.Machine
end

section
/-! The factories under the invariant: every payload fits in WBITS, so only a full list stops the commit (R160,
R221). -/
namespace Sys2Proof.Machine

open Spec (AllDigits AllAlnum IsNumericPayload IsAlnumPayload IsBytePayload CommitsFactory ok)

variable {s : State} {i : Instr} {B : Bits}

/-- The outcome is a success: a next state whose STATUS says so. -/
def Succeeds (s : State) (o : Host.Outcome State Fault Refusal) : Prop := ∃ t, o = .next t ∧ t.status = ok s

/-- The command commits a payload that fits in WBITS. -/
def CommitsWithinW (i : Instr) (s : State) : Prop :=
  ∃ m n B, B.length ≤ s.params.wBits ∧ CommitsFactory i s m n B

theorem CommitsWithinW.listFull (h : CommitsWithinW i s) (hfull : s.segs.length = s.params.nSeg) :
    exec i s = raise .listFull s := by
  obtain ⟨m, n, B, -, hfullList, -, -⟩ := h
  exact hfullList hfull

theorem CommitsWithinW.succeeds (h : CommitsWithinW i s) (hroom : s.segs.length ≠ s.params.nSeg) :
    Succeeds s (exec i s) := by
  obtain ⟨m, n, B, hfit, -, -, hmade⟩ := h
  exact ⟨_, hmade hroom hfit, rfl⟩

/-- R8: W holds 8 bits for each byte of IN, and an ECI designator. -/
theorem wBits_ge_of_paramsValid {p : Config.Params} (h : paramsValid p = true) :
    8 * p.inBytes ≤ p.wBits ∧ 24 ≤ p.wBits := by
  simp only [paramsValid, Bool.and_eq_true, decide_eq_true_eq] at h
  omega

/-- R160: a payload of at most 8 bits a byte of the input fits in W. -/
theorem State.Inv.payload_fits (h : s.Inv) (hB : B.length ≤ 8 * s.inlen.toNat) : B.length ≤ s.params.wBits := by
  obtain ⟨hw, -⟩ := wBits_ge_of_paramsValid h.params
  have hin := h.inlen
  omega

theorem length_le_of_isNumericPayload (h : IsNumericPayload s B) : B.length ≤ 8 * s.inlen.toNat := by
  obtain ⟨hlen, -⟩ := h
  split_ifs at hlen <;> omega

theorem length_le_of_isAlnumPayload (h : IsAlnumPayload s B) : B.length ≤ 8 * s.inlen.toNat := by
  obtain ⟨hlen, -⟩ := h
  split_ifs at hlen <;> omega

theorem length_le_of_isBytePayload (h : IsBytePayload s B) : B.length ≤ 8 * s.inlen.toNat := h.1.le

theorem numericBody_commitsWithinW (h : s.Inv) (hi : exec i s = numericBody s) (hdigits : AllDigits s) :
    CommitsWithinW i s := by
  obtain ⟨B, hB, hcommit⟩ := numericBody_commits hi hdigits
  exact ⟨_, _, B, h.payload_fits (length_le_of_isNumericPayload hB), hcommit⟩

theorem alnumBody_commitsWithinW (h : s.Inv) (hi : exec i s = alnumBody s) (halnum : AllAlnum s) :
    CommitsWithinW i s := by
  obtain ⟨B, hB, hcommit⟩ := alnumBody_commits hi halnum
  exact ⟨_, _, B, h.payload_fits (length_le_of_isAlnumPayload hB), hcommit⟩

theorem bytesBody_commitsWithinW (h : s.Inv) (hi : exec i s = bytesBody s) : CommitsWithinW i s := by
  obtain ⟨B, hB, hcommit⟩ := bytesBody_commits hi
  exact ⟨_, _, B, h.payload_fits (length_le_of_isBytePayload hB), hcommit⟩

theorem segEci_commitsWithinW (h : s.Inv) (hlo : 0 ≤ s.imm.toInt) (hhi : s.imm.toInt < 1000000) :
    CommitsWithinW .segEci s :=
  ⟨_, _, _, (eciPayload_length_le _).trans (wBits_ge_of_paramsValid h.params).2, segEci_commits hlo hhi⟩

/-- R166: on a nonempty text SEG_AUTO commits, whichever body it chooses. -/
theorem segAuto_commitsWithinW (h : s.Inv) (hne : s.inlen.toNat ≠ 0) : CommitsWithinW .segAuto s := by
  have hauto := exec_segAuto_of_nonempty hne
  split at hauto
  · next hdigits => exact numericBody_commitsWithinW h hauto (allDigits_iff.2 hdigits)
  · split at hauto
    · next halnum => exact alnumBody_commitsWithinW h hauto (allAlnum_iff.2 halnum)
    · exact bytesBody_commitsWithinW h hauto

end Sys2Proof.Machine
end

section
/-! The conditions of R226, each with the outcome that it gives where no earlier one applies. -/
namespace Sys2Proof.Machine

open Spec (VersionIllegal SlotMissing ArgumentInvalid CapacityMissed ListIsFull BufferIsFull)

variable {s : State} {i : Instr} {v : Nat}

/-- R220: the versions of the standard are those that are not illegal. -/
theorem version_not_illegal_iff : ¬(v < 1 ∨ 40 < v) ↔ 1 ≤ v ∧ v ≤ 40 := by omega

/-- An immediate that is not outside the range from 0 to a limit. -/
theorem range_of_not_outside {x limit : Int} (h : ¬(x < 0 ∨ limit ≤ x)) : 0 ≤ x ∧ x < limit := by omega

theorem exec_of_versionIllegal (h : VersionIllegal i) : exec i s = raise .badVersion s := by
  cases i with
  | ccw m v => exact exec_ccw_of_illegal s m fun hlegal => version_not_illegal_iff.2 hlegal h
  | totalBits v => exact execTotalBits_of_illegal h
  | serialize v => exact execSerialize_of_illegal h
  | _ => exact h.elim

theorem exec_of_slotMissing (h : SlotMissing s i) : exec i s = raise .badSlot s := by
  cases i with
  | segMode sl => exact withSlot_of_length_le h _
  | segCount sl => exact withSlot_of_length_le h _
  | segData sl => exact withSlot_of_length_le h _
  | _ => exact h.elim

theorem exec_of_argumentInvalid (h : ArgumentInvalid s i) : exec i s = raise .invalidArgument s := by
  cases i with
  | bbAppend n => exact if_pos h
  | segMake m => exact if_pos h
  | segEci => exact if_pos h
  | segNum => exact numericBody_of_not_allDigits h
  | segAlnum => exact alnumBody_of_not_allAlnum h
  | _ => exact h.elim

theorem exec_of_capacityMissed (hver : ¬VersionIllegal i) (h : CapacityMissed s i) :
    exec i s = capacityExceeded s := by
  cases i with
  | totalBits v =>
    obtain ⟨hlo, hhi⟩ := version_not_illegal_iff.1 hver
    exact execTotalBits_of_not_fits hlo hhi h
  | serialize v =>
    obtain ⟨hlo, hhi⟩ := version_not_illegal_iff.1 hver
    exact execSerialize_of_not_fits hlo hhi h
  | _ => exact h.elim

/-- SEG_MAKE and the factories on a full list, once their argument is legal (R140, R160). -/
theorem exec_of_listIsFull (hinv : s.Inv) (harg : ¬ArgumentInvalid s i) (h : ListIsFull s i) :
    exec i s = raise .listFull s := by
  cases i with
  | segMake m => exact (if_neg harg).trans (if_pos h)
  | segNum => exact (numericBody_commitsWithinW hinv rfl (not_not.1 harg)).listFull h
  | segAlnum => exact (alnumBody_commitsWithinW hinv rfl (not_not.1 harg)).listFull h
  | segBytes => exact (bytesBody_commitsWithinW hinv rfl).listFull h
  | segEci =>
    obtain ⟨hlo, hhi⟩ := range_of_not_outside harg
    exact (segEci_commitsWithinW hinv hlo hhi).listFull h
  | segAuto =>
    obtain ⟨hne, hfull⟩ := h
    exact (segAuto_commitsWithinW hinv hne).listFull hfull
  | _ => exact h.elim

theorem exec_of_bufferIsFull (hver : ¬VersionIllegal i) (harg : ¬ArgumentInvalid s i) (hcap : ¬CapacityMissed s i)
    (h : BufferIsFull s i) : exec i s = raise .bufferFull s := by
  cases i with
  | bbAppend n => exact (if_neg harg).trans (if_pos h)
  | serialize v =>
    obtain ⟨hlo, hhi⟩ := version_not_illegal_iff.1 hver
    exact (execSerialize_of_fits hlo hhi (not_not.1 hcap)).trans (if_pos h)
  | _ => exact h.elim

theorem withSlot_succeeds {sl : Nat} (h : ¬s.segs.length ≤ sl) {f : Segment → State}
    (hf : ∀ g, (f g).status = s.status) : Succeeds s (withSlot sl s f) := by
  obtain ⟨hmissing, -⟩ | ⟨g, -, he⟩ := withSlot_cases sl s f
  · exact absurd hmissing h
  · refine ⟨_, he, ?_⟩
    rw [State.setStatus_status, hf]
    rfl

/-- Where no condition of R226 applies, the command succeeds (R223). -/
theorem exec_succeeds (hinv : s.Inv) (hver : ¬VersionIllegal i) (hslot : ¬SlotMissing s i)
    (harg : ¬ArgumentInvalid s i) (hcap : ¬CapacityMissed s i) (hlist : ¬ListIsFull s i)
    (hbuf : ¬BufferIsFull s i) :
    Succeeds s (exec i s) := by
  cases i with
  | bbAppend n => exact ⟨_, (if_neg harg).trans (if_neg hbuf), rfl⟩
  | ccw m v =>
    obtain ⟨hlo, hhi⟩ := version_not_illegal_iff.1 hver
    exact ⟨_, exec_ccw_of_legal s m hlo hhi, rfl⟩
  | segMake m => exact ⟨_, (if_neg harg).trans (if_neg hlist), rfl⟩
  | segMode sl => exact withSlot_succeeds hslot fun _ => rfl
  | segCount sl => exact withSlot_succeeds hslot fun _ => rfl
  | segData sl => exact withSlot_succeeds hslot fun _ => rfl
  | segNum => exact (numericBody_commitsWithinW hinv rfl (not_not.1 harg)).succeeds hlist
  | segAlnum => exact (alnumBody_commitsWithinW hinv rfl (not_not.1 harg)).succeeds hlist
  | segBytes => exact (bytesBody_commitsWithinW hinv rfl).succeeds hlist
  | segEci =>
    obtain ⟨hlo, hhi⟩ := range_of_not_outside harg
    exact (segEci_commitsWithinW hinv hlo hhi).succeeds hlist
  | segAuto =>
    by_cases hempty : s.inlen.toNat = 0
    · exact ⟨_, if_pos hempty, rfl⟩
    · exact (segAuto_commitsWithinW hinv hempty).succeeds fun hfull => hlist ⟨hempty, hfull⟩
  | totalBits v =>
    obtain ⟨hlo, hhi⟩ := version_not_illegal_iff.1 hver
    exact ⟨_, execTotalBits_of_fits hlo hhi (not_not.1 hcap), rfl⟩
  | serialize v =>
    obtain ⟨hlo, hhi⟩ := version_not_illegal_iff.1 hver
    exact ⟨_, (execSerialize_of_fits hlo hhi (not_not.1 hcap)).trans (if_neg hbuf), rfl⟩
  | _ => exact ⟨_, rfl, rfl⟩

/-- Settles O28: an illegal word by its error; a command runs in a state that differs from `s` in the queue and CMDLAST
alone, so the conditions are those of `s`, and each gives its outcome. -/
theorem firstApplicableConditionIsReported : Obligations.FirstApplicableConditionIsReported := by
  rintro s _ c rest hinv hp rfl
  have hinv' : ((s.setPending rest).setCmdlast c).Inv := (hinv.setPending rest).setCmdlast c
  refine ⟨fun hc => (step_cmd hp).trans (issue_illegal hc _), fun i hc => ?_⟩
  rw [(step_cmd hp).trans (issue_command hc _)]
  exact ⟨exec_of_versionIllegal, fun _ hslot => exec_of_slotMissing hslot,
    fun _ _ harg => exec_of_argumentInvalid harg, fun hver _ _ hcap => exec_of_capacityMissed hver hcap,
    fun _ _ harg _ hlist => exec_of_listIsFull hinv' harg hlist,
    fun hver _ harg hcap _ hbuf => exec_of_bufferIsFull hver harg hcap hbuf, exec_succeeds hinv'⟩

end Sys2Proof.Machine
end

section
/-! The errors that each command can report (R221): each condition of R226 can apply only to the commands that list its
error. -/
namespace Sys2Proof.Machine

open Spec (VersionIllegal SlotMissing ArgumentInvalid CapacityMissed ListIsFull BufferIsFull reportable)

variable {s : State} {i : Instr}

theorem none_mem_reportable (i : Instr) : .none ∈ reportable i := by cases i <;> exact List.mem_cons_self

theorem badVersion_mem_reportable (h : VersionIllegal i) : .badVersion ∈ reportable i := by
  cases i with
  | ccw | totalBits | serialize => simp [reportable]
  | _ => exact h.elim

theorem badSlot_mem_reportable (h : SlotMissing s i) : .badSlot ∈ reportable i := by
  cases i with
  | segMode | segCount | segData => simp [reportable]
  | _ => exact h.elim

theorem invalidArgument_mem_reportable (h : ArgumentInvalid s i) : .invalidArgument ∈ reportable i := by
  cases i with
  | bbAppend | segMake | segEci | segNum | segAlnum => simp [reportable]
  | _ => exact h.elim

theorem listFull_mem_reportable (h : ListIsFull s i) : .listFull ∈ reportable i := by
  cases i with
  | segMake | segNum | segAlnum | segBytes | segEci | segAuto => simp [reportable]
  | _ => exact h.elim

theorem bufferFull_mem_reportable (h : BufferIsFull s i) : .bufferFull ∈ reportable i := by
  cases i with
  | bbAppend | serialize => simp [reportable]
  | _ => exact h.elim

/-- Under the invariant a command raises an error that it lists, ends with the capacity outcome, or succeeds. -/
theorem exec_reportable_cases (hinv : s.Inv) (i : Instr) :
    (∃ e ∈ reportable i, exec i s = raise e s) ∨ exec i s = capacityExceeded s ∨ Succeeds s (exec i s) := by
  by_cases hver : VersionIllegal i
  · exact .inl ⟨_, badVersion_mem_reportable hver, exec_of_versionIllegal hver⟩
  by_cases hslot : SlotMissing s i
  · exact .inl ⟨_, badSlot_mem_reportable hslot, exec_of_slotMissing hslot⟩
  by_cases harg : ArgumentInvalid s i
  · exact .inl ⟨_, invalidArgument_mem_reportable harg, exec_of_argumentInvalid harg⟩
  by_cases hcap : CapacityMissed s i
  · exact .inr (.inl (exec_of_capacityMissed hver hcap))
  by_cases hlist : ListIsFull s i
  · exact .inl ⟨_, listFull_mem_reportable hlist, exec_of_listIsFull hinv harg hlist⟩
  by_cases hbuf : BufferIsFull s i
  · exact .inl ⟨_, bufferFull_mem_reportable hbuf, exec_of_bufferIsFull hver harg hcap hbuf⟩
  exact .inr (.inr (exec_succeeds hinv hver hslot harg hcap hlist hbuf))

/-- R224: of a command's outcomes only the capacity outcome sets CAPX, and only TOTAL_BITS and SERIALIZE have it. -/
theorem exec_capx {t : State} (h : exec i s = .next t) (hcapx : t.status.capx = true) :
    ∃ v, i = .totalBits v ∨ i = .serialize v := by
  obtain (⟨e, -, he⟩ | ⟨w, out, segs, res, he⟩) | ⟨hcommand, -⟩ := exec_cases i s
  · rw [raise_next (he.symm.trans h)] at hcapx
    cases hcapx
  · rw [done_next (he.symm.trans h)] at hcapx
    cases hcapx
  · exact hcommand

/-- Settles O29: LERR by the condition that applies, CAPX by the outcomes of a command. -/
theorem eachCommandReportsOnlyItsOutcomes : Obligations.EachCommandReportsOnlyItsOutcomes := by
  refine fun i s t hinv h => ⟨?_, exec_capx h⟩
  obtain ⟨e, he, hraise⟩ | hcap | ⟨u, hu, hok⟩ := exec_reportable_cases hinv i
  · rwa [raise_next (hraise.symm.trans h)]
  · rw [capacityExceeded_next (hcap.symm.trans h)]
    exact none_mem_reportable i
  · cases hu.symm.trans h
    rw [hok]
    exact none_mem_reportable i

end Sys2Proof.Machine
end

section
/-! The reset input (R250): the step that performs it, and IN after it. -/
namespace Sys2Proof.Machine

variable {s : State} {o : Nat} {rest : List HostEvent}

theorem step_reset (h : s.pending = .reset :: rest) : step s = .next (afterReset (s.setPending rest)) := step_event h

/-- Reset leaves no byte of IN written, so each is a free value numbered by the new epoch (R49, R250). -/
theorem inByte_afterReset (ho : o < s.params.inBytes) :
    inByte (afterReset s) o = Config.inUnwritten (afterReset s).inEpoch o :=
  inByte_of_unwritten ho (by rw [afterReset_input, memGet])

/-- Settles O21: the state after reset field by field, and the bytes of IN because reset leaves none written. -/
theorem resetInputRestoresTheResetValues : Obligations.ResetInputRestoresTheResetValues := fun s rest h =>
  let u := s.setPending rest
  ⟨afterReset u, step_reset h, afterReset_status u, afterReset_res u, afterReset_imm u, afterReset_inlen u,
    afterReset_cmdlast u, afterReset_w u, afterReset_out u, afterReset_segs u, afterReset_params u,
    afterReset_pending u, fun _ => inByte_afterReset⟩

end Sys2Proof.Machine
end
